-- ==== Sys2Proof/Word.lean ====
section
/-! DEFINITION. The word types of CIX (spec/00_scope.md R9, R12; spec/20_memory.md R60) and the bus transaction of
spec/20_memory.md R63. -/

namespace Sys2Proof

/-- PCD register values, masks, command codes, mode bytes, response bytes and host registers: 8 bits (R9). -/
abbrev Byte := BitVec 8

/-- The operation word W (spec/30_encoding.md R80). -/
abbrev Word := BitVec 32

/-- A PCD register address, 0x00 to 0x3F (R60). -/
abbrev RegAddr := BitVec 6

/-- A host register offset, 0x00 to 0x3F (spec/10_state.md R22). -/
abbrev Offset := BitVec 6

/-- One PCD bus transaction (R63): a one-byte read that returned `v`, or a one-byte write of `v`, at PCD register
`a` of the PCD selected by the bus address `dev`. -/
inductive Txn where
  | rd (dev : Nat) (a : RegAddr) (v : Byte)
  | wr (dev : Nat) (a : RegAddr) (v : Byte)
  deriving DecidableEq, Repr

end Sys2Proof
end

