-- ==== Sys2Proof/Config.lean ====
section
/-! DEFINITION. The implementation parameters of spec/00_scope.md R8 and the free values of R11. -/

namespace Sys2Proof.Config

/-- `POLL_BUDGET` (R8): the completion poll's iteration budget. -/
def pollBudget : Nat := 2000

/-- `MAX_LEN` (R8): the most payload bytes accepted and response bytes read. -/
def maxLen : Nat := 16

/-- `PCD_FIFO_CAPACITY` (R8), informative: CIX never relies on it. -/
def pcdFifoCapacity : Nat := 64

/-- `PCD_BUS_ADDR` (R8, OPEN): the bus address of the one PCD an instance is bound to. The spec gives no value and no
width, so it is a constant without a body (log 1). -/
opaque pcdBusAddr : Nat

/-- The PCD oracle of R11: what a register read returns is constrained by nothing, so it is a constant without a body.
It is applied to everything CIX has done on the bus so far (newest first) and to the address read, so that no proof
can assume two reads, or two histories, to be answered alike (log 2). -/
opaque pcdAnswer : List Txn → RegAddr → Byte

end Sys2Proof.Config

namespace Sys2Proof

/-- The OPEN parameters of R8: arguments of the model, fixed for the life of an instance (R223). -/
structure Params where
  /-- `PCD_BUS_ADDR` -/
  busAddr     : Nat
  /-- `CMD_RECEIVE` -/
  cmdReceive  : Byte
  /-- `CMD_TRANSMIT` -/
  cmdTransmit : Byte
  /-- `CMD_CALCCRC` -/
  cmdCalcCrc  : Byte
  deriving DecidableEq, Repr

/-- The defaults of R8 for the three command codes (PRESUMED by the spec itself, 93_implementation_defined.md K2;
log 12). -/
def defaultParams : Params :=
  { busAddr := Config.pcdBusAddr, cmdReceive := 0x08, cmdTransmit := 0x04, cmdCalcCrc := 0x03 }

end Sys2Proof
end

