-- ==== Sys2Proof/Syntax.lean ====
section
/-! DEFINITION. The operation set CIX-OPS v1 (spec/00_scope.md R3): one constructor per row of
spec/opcode_table.json (spec/30_encoding.md R96). -/

namespace Sys2Proof

/-- An operation. `l` is the payload length field B of the EXEC forms (R83), `reg` the PCD register address and `m`
the mask of the bit-mask operations (R88). -/
inductive Instr where
  /-- EXEC.IDLE (R140) -/
  | idle (l : Byte)
  /-- EXEC.TRANSCEIVE (R141) -/
  | transceive (l : Byte)
  /-- EXEC.AUTHENT (R142) -/
  | authent (l : Byte)
  /-- EXEC.SOFTRESET (R143) -/
  | softReset (l : Byte)
  /-- EXEC.RECEIVE (R144) -/
  | receive (l : Byte)
  /-- EXEC.TRANSMIT (R145) -/
  | transmit (l : Byte)
  /-- EXEC.CALCCRC (R146) -/
  | calcCrc (l : Byte)
  /-- REQUEST.REQIDL (R166) -/
  | reqIdl
  /-- REQUEST.REQALL (R167) -/
  | reqAll
  /-- ANTICOLL (R175) -/
  | anticoll
  /-- SETBITS (R112) -/
  | setBits (reg : RegAddr) (m : Byte)
  /-- CLEARBITS (R113) -/
  | clearBits (reg : RegAddr) (m : Byte)
  deriving DecidableEq, Repr

/-- The PCD registers that spec/20_memory.md R61 names. CIX never accesses DivIrqReg; it is named for the assembler. -/
inductive PcdReg where
  | command | comIEn | comIrq | divIrq | error | fifoData | fifoLevel | control | bitFraming
  deriving DecidableEq, Repr

end Sys2Proof
end

