-- ==== Sys2Proof/WellFormed.lean ====
section
/-! DEFINITION. Which operations an operation word can carry, and which parameters a model may be given. -/

namespace Sys2Proof

/-- The one operand with values that no word may carry: EXEC's `L` is legal from 0 to 16 (spec/30_encoding.md R86).
Every register address and every mask is legal (R88). -/
def Instr.wellFormed : Instr → Bool
  | .idle l | .transceive l | .authent l | .softReset l | .receive l | .transmit l | .calcCrc l =>
    decide (l.toNat ≤ Config.maxLen)
  | .reqIdl | .reqAll | .anticoll => true
  | .setBits _ _ | .clearBits _ _ => true

/-- spec/00_scope.md R8: the three `CMD_*` parameters "must be distinct from each other and from 0x00, 0x0C, 0x0E and
0x0F". -/
def Params.legal (p : Params) : Bool :=
  decide (p.cmdReceive ≠ p.cmdTransmit) && decide (p.cmdReceive ≠ p.cmdCalcCrc)
    && decide (p.cmdTransmit ≠ p.cmdCalcCrc)
    && [p.cmdReceive, p.cmdTransmit, p.cmdCalcCrc].all fun c => ([0x00, 0x0C, 0x0E, 0x0F] : List Byte).all (· != c)

end Sys2Proof
end

