-- ==== Sys2Proof/Decode.lean ====
section
/-! DEFINITION. The operation word (spec/30_encoding.md): its fields (R81), its decoder (R92, R93) and its encoder
(R96, R97). -/

namespace Sys2Proof

/-! ## Codes of R85, R87 and R90 -/

/-- Idle (R85). -/
def cmdIdle : Byte := 0x00
/-- Transceive (R85). -/
def cmdTransceive : Byte := 0x0C
/-- Authenticate, also called Authent (R85, 90_conflicts.md C7). -/
def cmdAuthent : Byte := 0x0E
/-- SoftReset, also called ResetPhase (R85, 90_conflicts.md C7). -/
def cmdSoftReset : Byte := 0x0F
/-- The mode byte REQIDL (R87, R90). -/
def modeReqIdl : Byte := 0x26
/-- The mode byte REQALL (R87, R90). -/
def modeReqAll : Byte := 0x52

/-- The OP values of R82. -/
def opExec : BitVec 4 := 0x1
def opRequest : BitVec 4 := 0x2
def opAnticoll : BitVec 4 := 0x3
def opSetBits : BitVec 4 := 0x4
def opClearBits : BitVec 4 := 0x5

/-! ## Fields of W (R81) -/

def wordOp (w : Word) : BitVec 4 := w.extractLsb' 0 4
def wordZ1 (w : Word) : BitVec 4 := w.extractLsb' 4 4
def wordA (w : Word) : Byte := w.extractLsb' 8 8
def wordB (w : Word) : Byte := w.extractLsb' 16 8
def wordZ2 (w : Word) : Byte := w.extractLsb' 24 8

/-- `{OPW3, OPW2, OPW1, OPW0}` (spec/10_state.md R30): the operation word of four bytes, lowest offset first. -/
def wordOfBytes (b0 b1 b2 b3 : Byte) : Word :=
  b0.setWidth 32 ||| b1.setWidth 32 <<< 8 ||| b2.setWidth 32 <<< 16 ||| b3.setWidth 32 <<< 24

/-! ## Decoding -/

/-- Why a word is ILLEGAL: the cases (a) to (h) of R93. CIX treats them all alike (60_exceptions.md R197). -/
inductive IllegalWord where
  /-- (a) `W[31:24] != 0` -/
  | reservedHigh
  /-- (b) `W[7:4] != 0` -/
  | reservedLow
  /-- (c) OP is 0x0 or 0x6 to 0xF -/
  | reservedOp
  /-- (d) EXEC with a command code outside R85 -/
  | badCommand
  /-- (e) EXEC with `L > 16` -/
  | badLength
  /-- (f) REQUEST with another mode, or `B != 0` -/
  | badMode
  /-- (g) ANTICOLL with `A != 0` or `B != 0` -/
  | anticollOperand
  /-- (h) SETBITS or CLEARBITS with `A[7:6] != 0` -/
  | badRegister
  deriving DecidableEq, Repr

/-- What R92's `decode` returns: an operation, or ILLEGAL with the case of R93 that names why. -/
inductive Decoded where
  | legal (i : Instr)
  | illegal (why : IllegalWord)
  deriving DecidableEq, Repr

/-- The EXEC line of R92: the command code `a` against R85's set, the length `b` against R86's bound. -/
def decodeExec (p : Params) (a b : Byte) : Decoded :=
  if Config.maxLen < b.toNat then .illegal .badLength
  else if a = cmdIdle then .legal (.idle b)
  else if a = cmdTransceive then .legal (.transceive b)
  else if a = cmdAuthent then .legal (.authent b)
  else if a = cmdSoftReset then .legal (.softReset b)
  else if a = p.cmdReceive then .legal (.receive b)
  else if a = p.cmdTransmit then .legal (.transmit b)
  else if a = p.cmdCalcCrc then .legal (.calcCrc b)
  else .illegal .badCommand

/-- The REQUEST line of R92. -/
def decodeRequest (a b : Byte) : Decoded :=
  if b ≠ 0 then .illegal .badMode
  else if a = modeReqIdl then .legal .reqIdl
  else if a = modeReqAll then .legal .reqAll
  else .illegal .badMode

/-- The ANTICOLL line of R92. -/
def decodeAnticoll (a b : Byte) : Decoded :=
  if a = 0 ∧ b = 0 then .legal .anticoll else .illegal .anticollOperand

/-- The SETBITS and CLEARBITS lines of R92: `reg = A[5:0]`, `A[7:6] = 0`. -/
def decodeMask (make : RegAddr → Byte → Instr) (a b : Byte) : Decoded :=
  if a.extractLsb' 6 2 = 0 then .legal (make (a.extractLsb' 0 6) b) else .illegal .badRegister

/-- `decode` of R92: total on every 32-bit word, and a function of the word and the `CMD_*` parameters only (R94). -/
def decode (p : Params) (w : Word) : Decoded :=
  if wordZ2 w ≠ 0 then .illegal .reservedHigh
  else if wordZ1 w ≠ 0 then .illegal .reservedLow
  else if wordOp w = opExec then decodeExec p (wordA w) (wordB w)
  else if wordOp w = opRequest then decodeRequest (wordA w) (wordB w)
  else if wordOp w = opAnticoll then decodeAnticoll (wordA w) (wordB w)
  else if wordOp w = opSetBits then decodeMask .setBits (wordA w) (wordB w)
  else if wordOp w = opClearBits then decodeMask .clearBits (wordA w) (wordB w)
  else .illegal .reservedOp

/-! ## Encoding -/

/-- `W = zext_32(OP) | (zext_32(A) << 8) | (zext_32(B) << 16)` (R97). -/
def encodeFields (op : BitVec 4) (a b : Byte) : Word :=
  op.setWidth 32 ||| a.setWidth 32 <<< 8 ||| b.setWidth 32 <<< 16

/-- The word of an operation, from the rows of R96. -/
def encode (p : Params) : Instr → Word
  | .idle l => encodeFields opExec cmdIdle l
  | .transceive l => encodeFields opExec cmdTransceive l
  | .authent l => encodeFields opExec cmdAuthent l
  | .softReset l => encodeFields opExec cmdSoftReset l
  | .receive l => encodeFields opExec p.cmdReceive l
  | .transmit l => encodeFields opExec p.cmdTransmit l
  | .calcCrc l => encodeFields opExec p.cmdCalcCrc l
  | .reqIdl => encodeFields opRequest modeReqIdl 0
  | .reqAll => encodeFields opRequest modeReqAll 0
  | .anticoll => encodeFields opAnticoll 0 0
  | .setBits reg m => encodeFields opSetBits ((0 : BitVec 2) ++ reg) m
  | .clearBits reg m => encodeFields opClearBits ((0 : BitVec 2) ++ reg) m

/-- The decoder on a word numbered as spec/opcode_table.json numbers it, with the default parameters: the bits above
`nbits` are 0, and the four bytes are laid out as OPW0 to OPW3 hold them. -/
def decodeTableWord (nbits w : Nat) : Option Instr :=
  let x : Word := BitVec.ofNat 32 (w % 2 ^ nbits)
  match decode defaultParams
      (wordOfBytes (x.extractLsb' 0 8) (x.extractLsb' 8 8) (x.extractLsb' 16 8) (x.extractLsb' 24 8)) with
  | .legal i => some i
  | .illegal _ => none

end Sys2Proof
end

