-- ==== Sys2Proof/Machine/State.lean ====
section
/-! DEFINITION. The state of CIX (spec/10_state.md), of the PCD's answers and of the host's moves, as plain data. -/

namespace Sys2Proof.Machine

/-! ## Named values -/

/-- The executor outcome XOUT (R24). Code 3 is "never produced", so it has no name (log 19). -/
inductive XOut where
  | ok | noCardDetected | protocolError
  deriving DecidableEq, Repr

/-- The protocol result PRES (R24). -/
inductive PRes where
  | success | noCardFound | noUidFound | checksumMismatch
  deriving DecidableEq, Repr

/-- The host-level state SEQ (R24). Code 3 is "never produced" (log 19). -/
inductive Seq where
  | idle | cardPresent | uidKnown
  deriving DecidableEq, Repr

/-- The cause codes (R25). Code 7 is "never produced" (log 19). -/
inductive Cause where
  | none | timeout | chipError | noCard | badLength | checksum | illegal
  deriving DecidableEq, Repr

/-- The positions inside the exchange of spec/41_executor.md R120, one per bus transaction of its pseudocode; R41 lets a
model refine XCHG so (log 9). -/
inductive XPos where
  /-- write ComIEnReg (R122) -/
  | enable
  /-- read, then write ComIrqReg (R122) -/
  | irqRead | irqWrite
  /-- read, then write FIFOLevelReg (R122) -/
  | flushRead | flushWrite
  /-- write CommandReg with Idle (R123) -/
  | loadIdle
  /-- write the next payload byte to FIFODataReg (R124) -/
  | push
  /-- write CommandReg with the command (R125) -/
  | start
  /-- read, then write BitFramingReg (R126) -/
  | sendRead | sendWrite
  /-- read ComIrqReg (R127) -/
  | poll
  /-- read ErrorReg (R130) -/
  | error
  /-- read FIFOLevelReg (R133) -/
  | level
  /-- read ControlReg (R133) -/
  | control
  /-- read the next response byte from FIFODataReg (R136) -/
  | fetch
  deriving DecidableEq, Repr

/-- PHASE (R41): IDLE, PROTO_PRE, XCHG, RMW, POST, with XCHG and RMW refined to one value per step (log 9). `xchgEnd`
and `rmwEnd` are the points where EXEC and the bit-mask operations commit, with no bus transaction left. -/
inductive Phase where
  | idle
  | protoPre
  | xchg (p : XPos)
  | xchgEnd
  | rmwRead | rmwWrite | rmwEnd
  | post
  deriving DecidableEq, Repr

/-! ## The parts of the state -/

/-- The host registers of R22. The bytes a host reads are views of these (Flags.lean, HostPort.lean). -/
structure HostRegs where
  /-- STATUS.BUSY (R23) -/
  busy     : Bool
  /-- STATUS.DONE (R23) -/
  done     : Bool
  /-- STATUS.ILL (R23) -/
  ill      : Bool
  /-- STATUS.FAULT (R23, R195) -/
  fault    : Bool
  /-- RESULT.XOUT (R24) -/
  xout     : XOut
  /-- RESULT.PRES (R24) -/
  pres     : PRes
  /-- RESULT.SEQ (R24) -/
  seq      : Seq
  /-- CAUSE (R25) -/
  cause    : Cause
  /-- RCOUNT (R26) -/
  rcount   : Byte
  /-- RBITS (R27), 16-bit two's complement -/
  rbits    : BitVec 16
  /-- CARDTYPE (R28) -/
  cardtype : Byte
  /-- UID0 to UID3 (R29) -/
  uid      : Vector Byte 4
  /-- OPW0 to OPW3 (R30) -/
  opw      : Vector Byte 4
  /-- PAYLOAD0 to PAYLOAD15 (R32) -/
  payload  : Vector Byte 16
  /-- RDATA0 to RDATA15 (R33) -/
  rdata    : Vector Byte 16
  deriving DecidableEq, Repr

/-- The hidden working registers of R40, under the spec's names in lower case. -/
structure WorkRegs where
  /-- PHASE (R41) -/
  phase   : Phase
  /-- OPL, the latched operation word -/
  opl     : Word
  /-- CMD, the PCD command code of this exchange -/
  cmd     : Byte
  /-- IRQEN, the interrupt-enable mask -/
  irqen   : Byte
  /-- WAITIRQ, the wait mask -/
  waitirq : Byte
  /-- I, the poll iterations remaining -/
  i       : BitVec 11
  /-- NIRQ, the last value read from ComIrqReg -/
  nirq    : Byte
  /-- ERRV, the value read from ErrorReg -/
  errv    : Byte
  /-- LVL, the value read from FIFOLevelReg -/
  lvl     : Byte
  /-- LB, the valid-bit count -/
  lb      : BitVec 3
  /-- T, the value a read-modify-write helper read -/
  t       : Byte
  /-- K, the FIFO write or read index -/
  k       : BitVec 5
  /-- WXOUT, the outcome being built -/
  wxout   : XOut
  /-- WCAUSE, the cause being built -/
  wcause  : Cause
  /-- WBITS, backLen being built, two's complement -/
  wbits   : BitVec 16
  /-- WCOUNT, the response byte count being built -/
  wcount  : BitVec 5
  /-- WDATA0 to WDATA15 -/
  wdata   : Vector Byte 16
  /-- WLEN, the payload length of this exchange -/
  wlen    : BitVec 5
  /-- WPAY0 to WPAY15 -/
  wpay    : Vector Byte 16
  deriving DecidableEq, Repr

/-- A move of the environment: who acts next in the total order of spec/20_memory.md R71 (log 5). -/
inductive Move where
  /-- CIX performs its next step -/
  | cix
  /-- the host reads a host register (R35) -/
  | read (off : Offset)
  /-- the host writes a host register (R31, R34, R36, R194) -/
  | write (off : Offset) (v : Byte)
  /-- the host reads STATUS until BUSY = 0: WAITDONE of spec/30_encoding.md R98 (log 6) -/
  | waitDone
  /-- the reset input (spec/70_reset_and_hazards.md R220) -/
  | reset
  deriving DecidableEq, Repr

end Sys2Proof.Machine

namespace Sys2Proof.Machine

/-- CIX, the parameters it was built with, and what is known of the agents around it. -/
structure State where
  /-- the host registers (R22) -/
  host    : HostRegs
  /-- the hidden working registers (R40) -/
  work    : WorkRegs
  /-- the parameters of spec/00_scope.md R8, fixed for the life of the instance (R223; log 1) -/
  params  : Params
  /-- the PCD's next answers; past its end, `Config.pcdAnswer` (R11; log 2) -/
  answers : List Byte
  /-- the bus trace, newest first (R205; log 18) -/
  trace   : List Txn
  /-- the environment's next moves, next first (R71; log 5) -/
  moves   : List Move
  /-- what the host's reads returned, newest first (R35; log 18) -/
  seen    : List (Offset × Byte)
  deriving DecidableEq, Repr

/-- Why the machine stops. Both arise only in states that no run from reset reaches. -/
inductive Fault where
  /-- Raised by a meaning in a phase its operation never enters (R41 gives each operation its phases). Safe: the model
  stops where the spec says nothing (log 10). -/
  | foreignPhase
  /-- Raised by a step of CIX whose latched word OPL does not decode, though acceptance latches only words that do
  (R95). Safe: the model stops where the spec says nothing (log 10). -/
  | latchedWordIllegal
  deriving DecidableEq, Repr

/-- Why a step has no meaning. -/
inductive Refusal where
  /-- Raised by `exec` for an operation that has no meaning yet; no arm does. Safe. -/
  | notModelled (mnemonic : String)
  /-- Raised by `step` when the parameters break R8's condition: such a model "refuses to start". Safe (log 24). -/
  | illegalParameters
  deriving DecidableEq, Repr

/-- What a step or a meaning answers. -/
abbrev Result := Host.Outcome State Fault Refusal

/-- Every host register 0x00 (R43, R220). -/
def HostRegs.reset : HostRegs :=
  { busy := false, done := false, ill := false, fault := false
    xout := .ok, pres := .success, seq := .idle, cause := .none
    rcount := 0, rbits := 0, cardtype := 0
    uid := .replicate 4 0, opw := .replicate 4 0, payload := .replicate 16 0, rdata := .replicate 16 0 }

/-- PHASE is IDLE (R43); the others are "unspecified after reset", and hold zero here (DESIGN CHOICE, log 3). -/
def WorkRegs.reset : WorkRegs :=
  { phase := .idle, opl := 0, cmd := 0, irqen := 0, waitirq := 0, i := 0, nirq := 0, errv := 0, lvl := 0, lb := 0
    t := 0, k := 0, wxout := .ok, wcause := .none, wbits := 0, wcount := 0
    wdata := .replicate 16 0, wlen := 0, wpay := .replicate 16 0 }

/-- The machine right after reset (R43, R220), with the default parameters, nothing on the bus yet, and neither
answers nor moves laid out in advance (logs 1, 2, 5, 18). -/
def State.reset : State :=
  { host := HostRegs.reset, work := WorkRegs.reset, params := defaultParams
    answers := [], trace := [], moves := [], seen := [] }

end Sys2Proof.Machine
end

