-- ==== Sys2Proof/Machine/Operands.lean ====
section
/-! DEFINITION. What an operation works on: the byte files, the PCD register addresses, the operation word in OPW, the
masks of an exchange and the response length. -/

namespace Sys2Proof.Machine

/-! ## Byte files (OPW, UID, PAYLOAD, RDATA, WPAY, WDATA) -/

/-- Entry `k` of a byte file. The spec indexes a file of `n` entries only below `n`; past it, 0 (log 25). -/
def byteAt {n : Nat} (v : Vector Byte n) (k : Nat) : Byte := v[k]?.getD 0

/-- A byte file with entry `k` written; past its end, unchanged (log 25). -/
def setByte {n : Nat} (v : Vector Byte n) (k : Nat) (b : Byte) : Vector Byte n := v.setIfInBounds k b

/-- `for k in 0..L-1: WPAY[k] <- h[PAYLOAD k]` (spec/30_encoding.md R95). -/
def latchPayload (payload wpay : Vector Byte 16) : Nat → Vector Byte 16
  | 0 => wpay
  | l + 1 => setByte (latchPayload payload wpay l) l (byteAt payload l)

/-! ## Registers and words -/

/-- The PCD register addresses of spec/20_memory.md R61. -/
def regAddr : PcdReg → RegAddr
  | .command => 0x01
  | .comIEn => 0x02
  | .comIrq => 0x04
  | .divIrq => 0x05
  | .error => 0x06
  | .fifoData => 0x09
  | .fifoLevel => 0x0A
  | .control => 0x0C
  | .bitFraming => 0x0D

/-- `W = {OPW3, OPW2, OPW1, OPW0}` (spec/10_state.md R30). -/
def opWord (h : HostRegs) : Word :=
  wordOfBytes (byteAt h.opw 0) (byteAt h.opw 1) (byteAt h.opw 2) (byteAt h.opw 3)

/-- OPW0 to OPW3 holding `w`, little-endian (R30, spec/20_memory.md R67). -/
def opwOfWord (w : Word) : Vector Byte 4 :=
  #v[w.extractLsb' 0 8, w.extractLsb' 8 8, w.extractLsb' 16 8, w.extractLsb' 24 8]

/-! ## Frames of REQUEST and ANTICOLL (spec/30_encoding.md R90) -/

/-- BitFramingReg before a REQUEST: 7 valid bits in the last byte (spec/42_request.md R161). -/
def requestFraming : Byte := 0x07
/-- BitFramingReg before an ANTICOLL: full bytes (spec/43_anticoll.md R176). -/
def anticollFraming : Byte := 0x00
/-- The frame of an ANTICOLL (spec/43_anticoll.md R177). -/
def anticollFrame0 : Byte := 0x93
def anticollFrame1 : Byte := 0x20

/-! ## Masks and bits of the exchange (spec/41_executor.md) -/

/-- IRQEN of R121. -/
def irqEnableMask (cmd : Byte) : Byte :=
  if cmd = cmdAuthent then 0x12 else if cmd = cmdTransceive then 0x77 else 0x00

/-- WAITIRQ of R121. -/
def waitMask (cmd : Byte) : Byte :=
  if cmd = cmdAuthent then 0x10 else if cmd = cmdTransceive then 0x30 else 0x00

/-- The global-enable bit of ComIEnReg (R122). -/
def globalEnableBit : Byte := 0x80
/-- The bit of ComIrqReg that R122 clears. -/
def completionClearBit : Byte := 0x80
/-- The flush bit of FIFOLevelReg (R122). -/
def flushBit : Byte := 0x80
/-- The start-send bit of BitFramingReg (R126). -/
def startSendBit : Byte := 0x80
/-- The timer-interrupt bit of ComIrqReg (R127). -/
def timerBit : Byte := 0x01
/-- The error bits of ErrorReg: collision, parity, integrity, buffer-overflow (R131). -/
def errorMask : Byte := 0x1B

/-! ## The response length (spec/41_executor.md R134, R135) -/

/-- `backLen`, exact, from the unclamped level (R134). -/
def backLen (lvl : Byte) (lb : BitVec 3) : Int :=
  if lb = 0 then (lvl.toNat : Int) * 8 else ((lvl.toNat : Int) - 1) * 8 + (lb.toNat : Int)

/-- The number of response bytes to read: the level clamped to 1..16 (R135). -/
def clampCount (lvl : Byte) : BitVec 5 :=
  if lvl = 0 then 1 else if Config.maxLen < lvl.toNat then BitVec.ofNat 5 Config.maxLen else lvl.setWidth 5

/-- `WDATA[0] ^ WDATA[1] ^ WDATA[2] ^ WDATA[3]` (spec/43_anticoll.md R179). -/
def bcc (d : Vector Byte 16) : Byte := byteAt d 0 ^^^ byteAt d 1 ^^^ byteAt d 2 ^^^ byteAt d 3

/-- The first four response bytes, as UID0 to UID3 (spec/10_state.md R29). -/
def uidOf (d : Vector Byte 16) : Vector Byte 4 := #v[byteAt d 0, byteAt d 1, byteAt d 2, byteAt d 3]

end Sys2Proof.Machine
end

