-- ==== Sys2Proof/Machine/Flags.lean ====
section
/-! DEFINITION. The bytes that the host reads STATUS, RESULT, CAUSE and RBITS as (spec/10_state.md R23 to R27), and the
decisions that compute an outcome, a cause and a protocol result. -/

namespace Sys2Proof.Machine

/-! ## Codes (R24, R25) -/

def xoutCode : XOut → BitVec 2
  | .ok => 0
  | .noCardDetected => 1
  | .protocolError => 2

def presCode : PRes → BitVec 2
  | .success => 0
  | .noCardFound => 1
  | .noUidFound => 2
  | .checksumMismatch => 3

def seqCode : Seq → BitVec 2
  | .idle => 0
  | .cardPresent => 1
  | .uidKnown => 2

def causeCode : Cause → BitVec 3
  | .none => 0
  | .timeout => 1
  | .chipError => 2
  | .noCard => 3
  | .badLength => 4
  | .checksum => 5
  | .illegal => 6

/-! ## Register bytes -/

/-- STATUS: BUSY, DONE, ILL, FAULT in bits 0 to 3, bits 7:4 zero (R23). -/
def statusByte (h : HostRegs) : Byte :=
  (0 : BitVec 4) ++ BitVec.ofBool h.fault ++ BitVec.ofBool h.ill ++ BitVec.ofBool h.done ++ BitVec.ofBool h.busy

/-- RESULT: XOUT in bits 1:0, PRES in 3:2, SEQ in 5:4, bits 7:6 zero (R24). -/
def resultByte (h : HostRegs) : Byte :=
  (0 : BitVec 2) ++ seqCode h.seq ++ presCode h.pres ++ xoutCode h.xout

/-- CAUSE: the code in bits 2:0, bits 7:3 zero (R25). -/
def causeByte (h : HostRegs) : Byte := (0 : BitVec 5) ++ causeCode h.cause

/-- RBITS_LO and RBITS_HI (R27). -/
def rbitsLo (h : HostRegs) : Byte := h.rbits.extractLsb' 0 8
def rbitsHi (h : HostRegs) : Byte := h.rbits.extractLsb' 8 8

/-! ## Decisions of the exchange -/

/-- The poll's exit on the PCD's flags: the timer bit or some wait-mask bit (spec/41_executor.md R127). -/
def pollDone (nirq waitirq : Byte) : Bool := nirq &&& timerBit != 0 || nirq &&& waitirq != 0

/-- Step 6 on a poll that ended with iterations remaining (spec/41_executor.md R131, R132). -/
def classify (errv nirq irqen : Byte) : XOut × Cause :=
  if errv &&& errorMask ≠ 0 then (.protocolError, .chipError)
  else if nirq &&& irqen &&& timerBit ≠ 0 then (.noCardDetected, .noCard)
  else (.ok, .none)

/-! ## Decisions of REQUEST and ANTICOLL -/

/-- `Validate()` of spec/42_request.md R163: `ok` and `rcause`. -/
def validateRequest (w : WorkRegs) : Bool × Cause :=
  if w.wxout = .protocolError then (false, w.wcause)
  else if w.wbits ≠ 16 then (false, if w.wxout = .noCardDetected then .noCard else .badLength)
  else (true, .none)

/-- `CheckShape()` and `CheckBCC()` of spec/43_anticoll.md R178 to R180: `pres` and `acause`. -/
def checkAnticoll (w : WorkRegs) : PRes × Cause :=
  if w.wxout ≠ .ok then (.noUidFound, w.wcause)
  else if w.wcount ≠ 5 then (.noUidFound, .badLength)
  else if bcc w.wdata = byteAt w.wdata 4 then (.success, .none)
  else (.checksumMismatch, .checksum)

end Sys2Proof.Machine
end

