-- ==== Sys2Proof/Machine/Ops.lean ====
section
/-! DEFINITION. The shared operations: the two bus primitives, the read-modify-write helpers, acceptance, rejection, the
commit and reset. CIX takes no exception: it saves no state and transfers nowhere (spec/60_exceptions.md R198, R199);
the one event an operation word raises is `illegalOperation`, and the one a host write raises is `hostProtocolFault`. -/

namespace Sys2Proof.Machine

/-! ## Bus primitives (spec/20_memory.md R63) -/

/-- The byte the PCD gives to a read of `a` now: its next laid-out answer, else the oracle (spec/00_scope.md R11). -/
def pcdAnswer (a : RegAddr) (s : State) : Byte :=
  match s.answers with
  | v :: _ => v
  | [] => Config.pcdAnswer s.trace a

/-- The state after `MemRead(a, 1)`, which returned `pcdAnswer a s`. -/
def afterRead (a : RegAddr) (s : State) : State :=
  { s with answers := s.answers.tail, trace := .rd s.params.busAddr a (pcdAnswer a s) :: s.trace }

/-- `MemWrite(a, 1, v)`. -/
def memWrite (a : RegAddr) (v : Byte) (s : State) : State :=
  { s with trace := .wr s.params.busAddr a v :: s.trace }

/-- `PHASE <- ph` (spec/10_state.md R41). -/
def setPhase (ph : Phase) (s : State) : State := { s with work := { s.work with phase := ph } }

/-! ## Read-modify-write helpers (spec/40_bitmask.md) -/

/-- The first transaction of `SetBits(a, m)` and `ClearBits(a, m)` (R110, R111): `T <- MemRead(a, 1)`. -/
def rmwRead (a : RegAddr) (s : State) : State :=
  { afterRead a s with work := { s.work with t := pcdAnswer a s } }

/-- The second transaction of `SetBits(a, m)` (R110). -/
def setBitsWrite (a : RegAddr) (m : Byte) (s : State) : State := memWrite a (s.work.t ||| m) s

/-- The second transaction of `ClearBits(a, m)` (R111). -/
def clearBitsWrite (a : RegAddr) (m : Byte) (s : State) : State := memWrite a (s.work.t &&& ~~~m) s

/-! ## Acceptance and rejection -/

/-- What every acceptance does (spec/30_encoding.md R95), but for the payload: latch the word, set BUSY, clear DONE and
ILL, enter the operation's first phase. -/
def accept (first : Phase) (s : State) : State :=
  { s with
    host := { s.host with busy := true, done := false, ill := false }
    work := { s.work with opl := opWord s.host, phase := first } }

/-- `raise IllegalOperation(W)` (spec/60_exceptions.md R192). -/
def illegalOperation (s : State) : State :=
  { s with host := { s.host with ill := true, done := true, cause := .illegal } }

/-- `raise HostProtocolFault(off)` (spec/60_exceptions.md R194): the write is dropped and FAULT set. -/
def hostProtocolFault (s : State) : State := { s with host := { s.host with fault := true } }

/-! ## Commit (spec/10_state.md R37) -/

/-- `commit(...)`: the host registers become `r`, which holds the fields the operation names and the old value of the
others; then BUSY is cleared, DONE set, and PHASE is IDLE. -/
def commit (r : HostRegs) (s : State) : State :=
  { s with
    host := { r with busy := false, done := true }
    work := { s.work with phase := .idle } }

/-- The fields that every exchange commits: XOUT, CAUSE, RCOUNT, RBITS, RDATA (spec/41_executor.md R138), under the
cause that the operation reports. -/
def exchangeFields (cause : Cause) (s : State) : HostRegs :=
  { s.host with
    xout := s.work.wxout, cause := cause, rcount := s.work.wcount.setWidth 8, rbits := s.work.wbits
    rdata := s.work.wdata }

/-! ## Reset -/

/-- The reset input (spec/70_reset_and_hazards.md R220, R221, R223): every register at its reset value, no commit, no
bus transaction, the binding to the PCD kept. The working registers take the values of log 3. -/
def applyReset (s : State) : State := { s with host := HostRegs.reset, work := WorkRegs.reset }

end Sys2Proof.Machine
end

