-- ==== Sys2Proof/Machine/BitMask.lean ====
section
/-! DEFINITION. SETBITS and CLEARBITS (spec/40_bitmask.md R112, R113): acceptance, one read, one write, and a commit with
no result field. -/

namespace Sys2Proof.Machine

/-- The shape that R112 and R113 share; `write` is the second transaction of the helper. -/
def execRmw (reg : RegAddr) (write : State → State) (s : State) : Result :=
  match s.work.phase with
  | .idle => .next (accept .rmwRead s)
  | .rmwRead => .next (setPhase .rmwWrite (rmwRead reg s))
  | .rmwWrite => .next (setPhase .rmwEnd (write s))
  | .rmwEnd => .next (commit s.host s)
  | .protoPre | .xchg _ | .xchgEnd | .post => .fault .foreignPhase

/-- SETBITS `reg, m` (R112). -/
def execSetBits (reg : RegAddr) (m : Byte) (s : State) : Result := execRmw reg (setBitsWrite reg m) s

/-- CLEARBITS `reg, m` (R113). -/
def execClearBits (reg : RegAddr) (m : Byte) (s : State) : Result := execRmw reg (clearBitsWrite reg m) s

end Sys2Proof.Machine
end

