-- ==== Sys2Proof/Machine/Exchange.lean ====
section
/-! DEFINITION. `Exchange(cmd, L)` of spec/41_executor.md, one bus transaction at a time. What R120 does between two
transactions happens in the step of the transaction before it (spec/00_scope.md R13; logs 7 and 8). -/

namespace Sys2Proof.Machine

/-- The first lines of R120 and `SelectMasks()` of R121: no bus transaction. -/
def beginExchange (cmd : Byte) (l : BitVec 5) (s : State) : State :=
  { s with work := { s.work with
      cmd := cmd, wlen := l, wxout := .protocolError, wcause := .none, wbits := 0, wcount := 0
      wdata := .replicate 16 0, irqen := irqEnableMask cmd, waitirq := waitMask cmd, phase := .xchg .enable } }

/-- R122: `MemWrite(ComIEnReg, 1, IRQEN | 0x80)`. -/
def xEnable (s : State) : State :=
  setPhase (.xchg .irqRead) (memWrite (regAddr .comIEn) (s.work.irqen ||| globalEnableBit) s)

/-- R122: the read of `ClearBits(ComIrqReg, 0x80)`. -/
def xIrqRead (s : State) : State := setPhase (.xchg .irqWrite) (rmwRead (regAddr .comIrq) s)

/-- R122: the write of `ClearBits(ComIrqReg, 0x80)`. -/
def xIrqWrite (s : State) : State :=
  setPhase (.xchg .flushRead) (clearBitsWrite (regAddr .comIrq) completionClearBit s)

/-- R122: the read of `SetBits(FIFOLevelReg, 0x80)`. -/
def xFlushRead (s : State) : State := setPhase (.xchg .flushWrite) (rmwRead (regAddr .fifoLevel) s)

/-- R122: the write of `SetBits(FIFOLevelReg, 0x80)`. -/
def xFlushWrite (s : State) : State :=
  setPhase (.xchg .loadIdle) (setBitsWrite (regAddr .fifoLevel) flushBit s)

/-- R123: `MemWrite(CommandReg, 1, 0x00)`; then the payload loop of R124 begins at K = 0, or is empty. -/
def xLoadIdle (s : State) : State :=
  { memWrite (regAddr .command) cmdIdle s with
    work := { s.work with k := 0, phase := if s.work.wlen = 0 then .xchg .start else .xchg .push } }

/-- R124: `MemWrite(FIFODataReg, 1, WPAY[K])`, for K in 0 .. WLEN-1. -/
def xPush (s : State) : State :=
  { memWrite (regAddr .fifoData) (byteAt s.work.wpay s.work.k.toNat) s with
    work := { s.work with
      k := s.work.k + 1
      phase := if s.work.k.toNat + 1 < s.work.wlen.toNat then .xchg .push else .xchg .start } }

/-- The start of the poll (R127): `I <- POLL_BUDGET`. -/
def beginPoll (s : State) : State :=
  { s with work := { s.work with i := BitVec.ofNat 11 Config.pollBudget, phase := .xchg .poll } }

/-- R125: `MemWrite(CommandReg, 1, CMD)`; then the start-send step if the command is Transceive (R126), else the poll. -/
def xStart (s : State) : State :=
  if s.work.cmd = cmdTransceive then setPhase (.xchg .sendRead) (memWrite (regAddr .command) s.work.cmd s)
  else beginPoll (memWrite (regAddr .command) s.work.cmd s)

/-- R126: the read of `SetBits(BitFramingReg, 0x80)`. -/
def xSendRead (s : State) : State := setPhase (.xchg .sendWrite) (rmwRead (regAddr .bitFraming) s)

/-- R126: the write of `SetBits(BitFramingReg, 0x80)`. -/
def xSendWrite (s : State) : State := beginPoll (setBitsWrite (regAddr .bitFraming) startSendBit s)

/-- R127 to R129: one read of ComIrqReg, `I <- I - 1`, then the exit tests, the exhausted budget first. `after` is the
phase that the end of the exchange enters. -/
def xPoll (after : Phase) (s : State) : State :=
  let nirq := pcdAnswer (regAddr .comIrq) s
  let i := s.work.i - 1
  if i = 0 then
    { afterRead (regAddr .comIrq) s with
      work := { s.work with nirq := nirq, i := i, wxout := .protocolError, wcause := .timeout, phase := after } }
  else
    { afterRead (regAddr .comIrq) s with
      work := { s.work with
        nirq := nirq, i := i, phase := if pollDone nirq s.work.waitirq then .xchg .error else .xchg .poll } }

/-- R130 to R132: the read of ErrorReg and the outcome; the read-back follows only for Transceive with no error bit
(R120, R133, R137). -/
def xError (after : Phase) (s : State) : State :=
  let errv := pcdAnswer (regAddr .error) s
  let r := classify errv s.work.nirq s.work.irqen
  { afterRead (regAddr .error) s with
    work := { s.work with
      errv := errv, wxout := r.1, wcause := r.2
      phase := if r.1 ≠ .protocolError ∧ s.work.cmd = cmdTransceive then .xchg .level else after } }

/-- R133: `LVL <- MemRead(FIFOLevelReg, 1)`, the whole byte. -/
def xLevel (s : State) : State :=
  { afterRead (regAddr .fifoLevel) s with
    work := { s.work with lvl := pcdAnswer (regAddr .fifoLevel) s, phase := .xchg .control } }

/-- R133 to R135: `LB <- MemRead(ControlReg, 1)[2:0]`, then the bit length from the unclamped level and the clamp. -/
def xControl (s : State) : State :=
  let lb := (pcdAnswer (regAddr .control) s).extractLsb' 0 3
  { afterRead (regAddr .control) s with
    work := { s.work with
      lb := lb, wbits := BitVec.ofInt 16 (backLen s.work.lvl lb), wcount := clampCount s.work.lvl
      k := 0, phase := .xchg .fetch } }

/-- R136: `WDATA[K] <- MemRead(FIFODataReg, 1)`, for K in 0 .. WCOUNT-1. -/
def xFetch (after : Phase) (s : State) : State :=
  { afterRead (regAddr .fifoData) s with
    work := { s.work with
      wdata := setByte s.work.wdata s.work.k.toNat (pcdAnswer (regAddr .fifoData) s), k := s.work.k + 1
      phase := if s.work.k.toNat + 1 < s.work.wcount.toNat then .xchg .fetch else after } }

/-- One step of `Exchange` at position `p` (R120). -/
def exchangeStep (after : Phase) (p : XPos) (s : State) : State :=
  match p with
  | .enable => xEnable s
  | .irqRead => xIrqRead s
  | .irqWrite => xIrqWrite s
  | .flushRead => xFlushRead s
  | .flushWrite => xFlushWrite s
  | .loadIdle => xLoadIdle s
  | .push => xPush s
  | .start => xStart s
  | .sendRead => xSendRead s
  | .sendWrite => xSendWrite s
  | .poll => xPoll after s
  | .error => xError after s
  | .level => xLevel s
  | .control => xControl s
  | .fetch => xFetch after s

end Sys2Proof.Machine
end

