-- ==== Sys2Proof/Machine/Exec.lean ====
section
/-! DEFINITION. EXEC (spec/41_executor.md R139 to R146): one meaning per variant, each the next atomic step of its
operation. In IDLE that step is acceptance; then one bus transaction a step; then the commit of R138. -/

namespace Sys2Proof.Machine

/-- Acceptance of `EXEC cmd, L` (spec/30_encoding.md R95): the common part, the payload latched, and the start of the
exchange of R120. -/
def acceptExec (cmd l : Byte) (s : State) : State :=
  beginExchange cmd (l.setWidth 5)
    { accept (.xchg .enable) s with
      work := { s.work with opl := opWord s.host, wpay := latchPayload s.host.payload s.work.wpay l.toNat } }

/-- The EXEC commit (R138). -/
def commitExec (s : State) : State := commit (exchangeFields s.work.wcause s) s

/-- EXEC `cmd, L` (R139). A length above 16 has no word and is rejected as R93 (e) says (log 11). -/
def execExchange (cmd l : Byte) (s : State) : Result :=
  match s.work.phase with
  | .idle => .next (if l.toNat ≤ Config.maxLen then acceptExec cmd l s else illegalOperation s)
  | .xchg p => .next (exchangeStep .xchgEnd p s)
  | .xchgEnd => .next (commitExec s)
  | .protoPre | .rmwRead | .rmwWrite | .rmwEnd | .post => .fault .foreignPhase

/-- EXEC.IDLE (R140). -/
def execIdle (l : Byte) (s : State) : Result := execExchange cmdIdle l s

/-- EXEC.TRANSCEIVE (R141). -/
def execTransceive (l : Byte) (s : State) : Result := execExchange cmdTransceive l s

/-- EXEC.AUTHENT (R142). -/
def execAuthent (l : Byte) (s : State) : Result := execExchange cmdAuthent l s

/-- EXEC.SOFTRESET (R143). -/
def execSoftReset (l : Byte) (s : State) : Result := execExchange cmdSoftReset l s

/-- EXEC.RECEIVE (R144): the code is the parameter `CMD_RECEIVE`. -/
def execReceive (l : Byte) (s : State) : Result := execExchange s.params.cmdReceive l s

/-- EXEC.TRANSMIT (R145): the code is the parameter `CMD_TRANSMIT`. -/
def execTransmit (l : Byte) (s : State) : Result := execExchange s.params.cmdTransmit l s

/-- EXEC.CALCCRC (R146): the code is the parameter `CMD_CALCCRC`. -/
def execCalcCrc (l : Byte) (s : State) : Result := execExchange s.params.cmdCalcCrc l s

end Sys2Proof.Machine
end

