-- ==== Sys2Proof/Machine/Protocol.lean ====
section
/-! DEFINITION. REQUEST (spec/42_request.md) and ANTICOLL (spec/43_anticoll.md): one write of BitFramingReg, the
exchange of a fixed frame, and an evaluation with its commit. -/

namespace Sys2Proof.Machine

/-! ## REQUEST -/

/-- R161 and R162: `MemWrite(BitFramingReg, 1, 0x07)`, `WPAY[0] <- mode`, and the start of `Exchange(0x0C, 1)`. -/
def requestPre (mode : Byte) (s : State) : State :=
  beginExchange cmdTransceive 1
    { memWrite (regAddr .bitFraming) requestFraming s with
      work := { s.work with wpay := setByte s.work.wpay 0 mode } }

/-- R163 and R164: the validation and the commit. -/
def commitRequest (s : State) : State :=
  let v := validateRequest s.work
  commit
    { exchangeFields v.2 s with
      pres := if v.1 then .success else .noCardFound
      seq := if v.1 then .cardPresent else .idle
      cardtype := if v.1 then byteAt s.work.wdata 0 else 0 } s

/-- REQUEST `mode` (R160). -/
def execRequest (mode : Byte) (s : State) : Result :=
  match s.work.phase with
  | .idle => .next (accept .protoPre s)
  | .protoPre => .next (requestPre mode s)
  | .xchg p => .next (exchangeStep .post p s)
  | .post => .next (commitRequest s)
  | .xchgEnd | .rmwRead | .rmwWrite | .rmwEnd => .fault .foreignPhase

/-- REQUEST.REQIDL (R166). -/
def execReqIdl (s : State) : Result := execRequest modeReqIdl s

/-- REQUEST.REQALL (R167). -/
def execReqAll (s : State) : Result := execRequest modeReqAll s

/-! ## ANTICOLL -/

/-- R176 and R177: `MemWrite(BitFramingReg, 1, 0x00)`, the frame 0x93 0x20, and the start of `Exchange(0x0C, 2)`. -/
def anticollPre (s : State) : State :=
  beginExchange cmdTransceive 2
    { memWrite (regAddr .bitFraming) anticollFraming s with
      work := { s.work with wpay := setByte (setByte s.work.wpay 0 anticollFrame0) 1 anticollFrame1 } }

/-- R178 to R181: the checks and the commit. -/
def commitAnticoll (s : State) : State :=
  let v := checkAnticoll s.work
  commit
    { exchangeFields v.2 s with
      pres := v.1
      seq := if v.1 = .success then .uidKnown else .idle
      uid := if v.1 = .success then uidOf s.work.wdata else .replicate 4 0 } s

/-- ANTICOLL (R175). -/
def execAnticoll (s : State) : Result :=
  match s.work.phase with
  | .idle => .next (accept .protoPre s)
  | .protoPre => .next (anticollPre s)
  | .xchg p => .next (exchangeStep .post p s)
  | .post => .next (commitAnticoll s)
  | .xchgEnd | .rmwRead | .rmwWrite | .rmwEnd => .fault .foreignPhase

end Sys2Proof.Machine
end

