-- ==== Sys2Proof/Machine/Dispatch.lean ====
section
/-! DEFINITION. The meaning of every operation: its next atomic step in the phase the state is in (spec/00_scope.md R13,
spec/10_state.md R41). -/

namespace Sys2Proof.Machine

/-- One atomic step of the operation `i` in `s`: its acceptance in IDLE, else the next step of its rule. -/
def exec (i : Instr) (s : State) : Host.Outcome State Fault Refusal :=
  match i with
  | .idle l => Sys2Proof.Machine.execIdle l s
  | .transceive l => Sys2Proof.Machine.execTransceive l s
  | .authent l => Sys2Proof.Machine.execAuthent l s
  | .softReset l => Sys2Proof.Machine.execSoftReset l s
  | .receive l => Sys2Proof.Machine.execReceive l s
  | .transmit l => Sys2Proof.Machine.execTransmit l s
  | .calcCrc l => Sys2Proof.Machine.execCalcCrc l s
  | .reqIdl => Sys2Proof.Machine.execReqIdl s
  | .reqAll => Sys2Proof.Machine.execReqAll s
  | .anticoll => Sys2Proof.Machine.execAnticoll s
  | .setBits reg m => Sys2Proof.Machine.execSetBits reg m s
  | .clearBits reg m => Sys2Proof.Machine.execClearBits reg m s

end Sys2Proof.Machine
end

