-- ==== Sys2Proof/Machine/HostPort.lean ====
section
/-! DEFINITION. The host port (spec/10_state.md R22, R30 to R36), the GO of spec/30_encoding.md R95, and one move of the
machine in the total order of spec/20_memory.md R71. -/

namespace Sys2Proof.Machine

/-! ## Offsets (R22) -/

def offStatus : Offset := 0x00
def offCtrl : Offset := 0x10
/-- The offset of OPWk, k below 4. -/
def offOpw (k : Nat) : Offset := BitVec.ofNat 6 (0x0C + k)
/-- The offset of PAYLOADk, k below 16. -/
def offPayload (k : Nat) : Offset := BitVec.ofNat 6 (0x20 + k)

/-! ## Reads -/

/-- What a host read of offset `off` returns (R22, R34, R35). -/
def hostRead (h : HostRegs) (off : Offset) : Byte :=
  let o := off.toNat
  if o = 0x00 then statusByte h
  else if o = 0x01 then resultByte h
  else if o = 0x02 then causeByte h
  else if o = 0x03 then h.rcount
  else if o = 0x04 then rbitsLo h
  else if o = 0x05 then rbitsHi h
  else if o = 0x06 then h.cardtype
  else if 0x07 ≤ o ∧ o ≤ 0x0A then byteAt h.uid (o - 0x07)
  else if 0x0C ≤ o ∧ o ≤ 0x0F then byteAt h.opw (o - 0x0C)
  else if 0x20 ≤ o ∧ o ≤ 0x2F then byteAt h.payload (o - 0x20)
  else if 0x30 ≤ o then byteAt h.rdata (o - 0x30)
  else 0x00

/-- The host's read of `off`: it notes the value and changes nothing of CIX (R35). -/
def noteRead (off : Offset) (s : State) : State := { s with seen := (off, hostRead s.host off) :: s.seen }

/-! ## Writes -/

/-- Whether `off` is OPW0..3, CTRL or PAYLOAD0..15, the registers a host write reaches (R36, R194). -/
def hostWritable (off : Offset) : Bool :=
  let o := off.toNat
  decide (0x0C ≤ o ∧ o ≤ 0x10 ∨ 0x20 ≤ o ∧ o ≤ 0x2F)

/-- The store of a host write to OPWk or PAYLOADk (R36). -/
def storeHost (off : Offset) (v : Byte) (h : HostRegs) : HostRegs :=
  let o := off.toNat
  if 0x0C ≤ o ∧ o ≤ 0x0F then { h with opw := setByte h.opw (o - 0x0C) v }
  else if 0x20 ≤ o ∧ o ≤ 0x2F then { h with payload := setByte h.payload (o - 0x20) v }
  else h

/-- GO with BUSY = 0 (spec/30_encoding.md R95): the word in OPW is rejected, or its operation begins. -/
def go (s : State) : Result :=
  match decode s.params (opWord s.host) with
  | .legal i => exec i s
  | .illegal _ => .next (illegalOperation s)

/-- A host write of `v` to `off`: while BUSY a writable register raises the host-protocol fault (R194); else CTRL with bit
0 set is a GO and with bit 0 clear nothing (R31), OPWk and PAYLOADk store (R36), and any other offset ignores it (R34). -/
def hostWrite (off : Offset) (v : Byte) (s : State) : Result :=
  if hostWritable off = false then .next s
  else if s.host.busy then .next (hostProtocolFault s)
  else if off = offCtrl then (if v.getLsbD 0 then go s else .next s)
  else .next { s with host := storeHost off v s.host }

/-! ## Moves -/

/-- CIX's own move: the next step of the operation latched in OPL, or, in IDLE, waiting (R222; log 22). -/
def cixMove (s : State) : Result :=
  if s.work.phase = .idle then .next s
  else
    match decode s.params s.work.opl with
    | .legal i => exec i s
    | .illegal _ => .fault .latchedWordIllegal

/-- One move of the machine: the environment's next one, or, when none is left, CIX's (R71; log 5). -/
def oneMove (s : State) : Result :=
  match s.moves with
  | [] => cixMove s
  | .cix :: rest => cixMove { s with moves := rest }
  | .read off :: rest => .next (noteRead off { s with moves := rest })
  | .write off v :: rest => hostWrite off v { s with moves := rest }
  | .waitDone :: rest => if s.host.busy then cixMove s else .next (noteRead offStatus { s with moves := rest })
  | .reset :: rest => .next (applyReset { s with moves := rest })

/-- One step: a machine whose parameters break spec/00_scope.md R8's condition does not run. -/
def stepOf (s : State) : Result :=
  if s.params.legal then oneMove s else .refused .illegalParameters

/-- `s` with the word `w` issued: the word in OPW, no operation in flight, and the host's next move a GO (log 16). -/
def issueWord (w : Word) (s : State) : State :=
  { s with
    host := { s.host with busy := false, opw := opwOfWord w }
    work := { s.work with phase := .idle }
    moves := .write offCtrl 0x01 :: s.moves }

end Sys2Proof.Machine
end

