-- ==== Sys2Proof/Machine/Step.lean ====
section
/-! DEFINITION. The step of the machine, and how an operation word is put where the next step issues it. -/

namespace Sys2Proof.Machine

/-- One atomic step of one agent (spec/00_scope.md R10, R13; spec/20_memory.md R71). -/
def step (s : State) : Host.Outcome State Fault Refusal := stepOf s

/-- `s` with the operation word of `nbits` bits `w` issued by a GO that the next step performs (log 16). -/
def State.withFetchWord (s : State) (nbits w : Nat) : State := issueWord (BitVec.ofNat 32 (w % 2 ^ nbits)) s

end Sys2Proof.Machine
end

