-- ==== Sys2Proof/Machine/Assembler.lean ====
section
/-! DEFINITION. The assembler of spec/30_encoding.md R97 and R98, on abstract lines (log 26): the word a line assembles
to, and the host sequence it stands for. -/

namespace Sys2Proof.Machine

/-- The command operand of an EXEC line (R97). -/
inductive AsmCmd where
  | idle | transceive | authent | softReset | receive | transmit | calcCrc
  | number (n : Byte)
  deriving DecidableEq, Repr

/-- The mode operand of a REQUEST line (R97). -/
inductive AsmMode where
  | reqIdl | reqAll
  | number (n : Byte)
  deriving DecidableEq, Repr

/-- The register operand of a SETBITS or CLEARBITS line (R97): a name of spec/20_memory.md R61 or a number. -/
inductive AsmReg where
  | name (r : PcdReg)
  | number (a : RegAddr)
  deriving DecidableEq, Repr

/-- A line of R97 or R98. -/
inductive AsmLine where
  | exec (cmd : AsmCmd) (l : Byte)
  | request (mode : AsmMode)
  | anticoll
  | setBits (reg : AsmReg) (m : Byte)
  | clearBits (reg : AsmReg) (m : Byte)
  /-- pseudo-instructions of R98 -/
  | reqIdl | reqAll
  | transceive (l : Byte)
  | authent (l : Byte)
  | idle | softReset
  | ldpay (k : Fin 16) (b : Byte)
  | waitDone
  deriving DecidableEq, Repr

def asmCmd (p : Params) : AsmCmd → Byte
  | .idle => cmdIdle
  | .transceive => cmdTransceive
  | .authent => cmdAuthent
  | .softReset => cmdSoftReset
  | .receive => p.cmdReceive
  | .transmit => p.cmdTransmit
  | .calcCrc => p.cmdCalcCrc
  | .number n => n

def asmMode : AsmMode → Byte
  | .reqIdl => modeReqIdl
  | .reqAll => modeReqAll
  | .number n => n

def asmReg : AsmReg → Byte
  | .name r => (regAddr r).setWidth 8
  | .number a => a.setWidth 8

/-- The word of a line (R97, and the W column of R98); LDPAY and WAITDONE have none. -/
def assemble (p : Params) : AsmLine → Option Word
  | .exec cmd l => some (encodeFields opExec (asmCmd p cmd) l)
  | .request mode => some (encodeFields opRequest (asmMode mode) 0)
  | .anticoll => some (encodeFields opAnticoll 0 0)
  | .setBits reg m => some (encodeFields opSetBits (asmReg reg) m)
  | .clearBits reg m => some (encodeFields opClearBits (asmReg reg) m)
  | .reqIdl => some (encodeFields opRequest modeReqIdl 0)
  | .reqAll => some (encodeFields opRequest modeReqAll 0)
  | .transceive l => some (encodeFields opExec cmdTransceive l)
  | .authent l => some (encodeFields opExec cmdAuthent l)
  | .idle => some (encodeFields opExec cmdIdle 0)
  | .softReset => some (encodeFields opExec cmdSoftReset 0)
  | .ldpay _ _ | .waitDone => none

/-- "write W[7:0], W[15:8], W[23:16], W[31:24] to OPW0..OPW3, then write 0x01 to CTRL" (R97). -/
def issueMoves (w : Word) : List Move :=
  [.write (offOpw 0) (w.extractLsb' 0 8), .write (offOpw 1) (w.extractLsb' 8 8),
   .write (offOpw 2) (w.extractLsb' 16 8), .write (offOpw 3) (w.extractLsb' 24 8), .write offCtrl 0x01]

/-- The host sequence a line stands for (R97, R98). -/
def hostSequence (p : Params) (line : AsmLine) : List Move :=
  match line with
  | .ldpay k b => [.write (offPayload k.val) b]
  | .waitDone => [.waitDone]
  | _ =>
    match assemble p line with
    | some w => issueMoves w
    | none => []

/-- The host sequence of a program. -/
def hostProgram (p : Params) (lines : List AsmLine) : List Move := lines.flatMap (hostSequence p)

end Sys2Proof.Machine
end

