-- ==== Sys2Proof/Safety.lean ====
section
/-! DEFINITION. The terms that statements about CIX use: runs, the invariant of the machine, and what an operation may
do on the bus. Nothing here is called by the machine. -/

namespace Sys2Proof.Machine

/-! ## Runs -/

/-- `n` steps of the machine, moves of the host included: `Host.Core.run` of Sys2Proof.core (Laws.Step, `run_eq_core`). -/
def run : Nat → State → Result
  | 0, s => .next s
  | n + 1, s =>
    match step s with
    | .next t => run n t
    | .fault f => .fault f
    | .refused r => .refused r

/-- `n` atomic steps of the operation `i`, with nothing of the host's between them. -/
def runOp (i : Instr) : Nat → State → Result
  | 0, s => .next s
  | n + 1, s =>
    match exec i s with
    | .next t => runOp i n t
    | .fault f => .fault f
    | .refused r => .refused r

/-- The state after a step that went on. -/
def nextOf (r : Result) : Option State :=
  match r with
  | .next t => some t
  | .fault _ => none
  | .refused _ => none

/-! ## What an operation is -/

/-- The EXEC variants (spec/41_executor.md R139 to R146) with their command code and payload length. -/
def execForm (p : Params) : Instr → Option (Byte × Byte)
  | .idle l => some (cmdIdle, l)
  | .transceive l => some (cmdTransceive, l)
  | .authent l => some (cmdAuthent, l)
  | .softReset l => some (cmdSoftReset, l)
  | .receive l => some (p.cmdReceive, l)
  | .transmit l => some (p.cmdTransmit, l)
  | .calcCrc l => some (p.cmdCalcCrc, l)
  | .reqIdl | .reqAll | .anticoll => none
  | .setBits _ _ | .clearBits _ _ => none

/-- The REQUEST variants with their mode byte (spec/42_request.md R166, R167). -/
def requestForm : Instr → Option Byte
  | .reqIdl => some modeReqIdl
  | .reqAll => some modeReqAll
  | .idle _ | .transceive _ | .authent _ | .softReset _ | .receive _ | .transmit _ | .calcCrc _ => none
  | .anticoll | .setBits _ _ | .clearBits _ _ => none

/-- The command code and the payload length of an operation's exchange: R139, R162, R177; a bit-mask operation has none. -/
def exchangeForm (p : Params) : Instr → Option (Byte × Byte)
  | .reqIdl | .reqAll => some (cmdTransceive, 1)
  | .anticoll => some (cmdTransceive, 2)
  | i => execForm p i

/-- The phases of an operation (spec/10_state.md R41). -/
def ownsPhase (i : Instr) : Phase → Bool
  | .idle => true
  | .protoPre | .post =>
    match i with
    | .reqIdl | .reqAll | .anticoll => true
    | _ => false
  | .xchg _ =>
    match i with
    | .setBits _ _ | .clearBits _ _ => false
    | _ => true
  | .xchgEnd =>
    match i with
    | .reqIdl | .reqAll | .anticoll | .setBits _ _ | .clearBits _ _ => false
    | _ => true
  | .rmwRead | .rmwWrite | .rmwEnd =>
    match i with
    | .setBits _ _ | .clearBits _ _ => true
    | _ => false

/-- The phase in which the exchange of an operation ends: EXEC commits there, REQUEST and ANTICOLL evaluate in POST. -/
def endPhase : Instr → Phase
  | .reqIdl | .reqAll | .anticoll => .post
  | _ => .xchgEnd

/-- Whether an operation runs an exchange (spec/41_executor.md R120): all but SETBITS and CLEARBITS. -/
def runsExchange : Instr → Bool
  | .setBits _ _ | .clearBits _ _ => false
  | _ => true

/-- The five names of R41 that the phases refine. -/
inductive PhaseName where
  | idle | protoPre | xchg | rmw | post
  deriving DecidableEq, Repr

/-- R41's name of a phase. -/
def phaseName : Phase → PhaseName
  | .idle => .idle
  | .protoPre => .protoPre
  | .xchg _ | .xchgEnd => .xchg
  | .rmwRead | .rmwWrite | .rmwEnd => .rmw
  | .post => .post

/-! ## Transactions -/

/-- The bus address of a transaction. -/
def txnDev : Txn → Nat
  | .rd d _ _ => d
  | .wr d _ _ => d

/-- The PCD register of a transaction. -/
def txnAddr : Txn → RegAddr
  | .rd _ a _ => a
  | .wr _ a _ => a

/-- The bus trace in the order of time (spec/60_exceptions.md R205). -/
def busTrace (s : State) : List Txn := s.trace.reverse

/-! ## The invariant -/

/-- STATUS: "PHASE = IDLE if and only if STATUS.BUSY = 0" (R41); BUSY with DONE, and BUSY with ILL, never occur (R23). -/
abbrev StatusInv (s : State) : Prop :=
  s.host.busy = decide (s.work.phase ≠ .idle) ∧ (s.host.busy = true → s.host.done = false ∧ s.host.ill = false)

/-- RESULT, RCOUNT, RBITS, RDATA, CARDTYPE and UID: the ranges of R26, R27, R33, and R28, R29 and the host-level state
machine of R24 after a failure. -/
abbrev ResultInv (h : HostRegs) : Prop :=
  h.rcount.toNat ≤ 16 ∧ (-7 ≤ h.rbits.toInt ∧ h.rbits.toInt ≤ 2040)
    ∧ (∀ k : Fin 16, h.rcount.toNat ≤ k.val → byteAt h.rdata k.val = 0)
    ∧ (h.pres ≠ .success → h.seq = .idle)
    ∧ (h.pres = .noCardFound → h.cardtype = 0)
    ∧ (h.pres = .noUidFound ∨ h.pres = .checksumMismatch → h.uid = .replicate 4 0)

/-- The registers of an exchange at position `p` (spec/41_executor.md R120 to R136). -/
def positionOk (w : WorkRegs) : XPos → Bool
  | .push => decide (w.k.toNat < w.wlen.toNat)
  | .sendRead | .sendWrite => decide (w.cmd = cmdTransceive)
  | .poll => decide (0 < w.i.toNat ∧ w.i.toNat ≤ Config.pollBudget)
  | .level | .control => decide (w.cmd = cmdTransceive)
  | .fetch => decide (w.cmd = cmdTransceive ∧ w.k.toNat < w.wcount.toNat)
  | .enable | .irqRead | .irqWrite | .flushRead | .flushWrite | .loadIdle | .start | .error => true

/-- How many entries of WDATA an exchange has filled at a phase. -/
def filled (w : WorkRegs) : Nat :=
  match w.phase with
  | .xchg .fetch => w.k.toNat
  | .xchg _ => 0
  | _ => w.wcount.toNat

/-- The working registers of an exchange in flight or just ended. -/
abbrev ExchangeInv (w : WorkRegs) : Prop :=
  w.irqen = irqEnableMask w.cmd ∧ w.waitirq = waitMask w.cmd ∧ w.wlen.toNat ≤ 16 ∧ w.wcount.toNat ≤ 16
    ∧ (-7 ≤ w.wbits.toInt ∧ w.wbits.toInt ≤ 2040)
    ∧ (∀ k : Fin 16, filled w ≤ k.val → byteAt w.wdata k.val = 0)

/-- The operation in flight is the one latched in OPL (R95), in a phase of its own, and its exchange is its own. -/
def latchedOk (s : State) : Bool :=
  match s.work.phase with
  | .idle => true
  | ph =>
    match decode s.params s.work.opl with
    | .illegal _ => false
    | .legal i =>
      ownsPhase i ph &&
        match ph with
        | .xchg p =>
          decide (exchangeForm s.params i = some (s.work.cmd, s.work.wlen.setWidth 8)) && decide (ExchangeInv s.work)
            && positionOk s.work p
        | .xchgEnd | .post =>
          decide (exchangeForm s.params i = some (s.work.cmd, s.work.wlen.setWidth 8)) && decide (ExchangeInv s.work)
        | .idle | .protoPre | .rmwRead | .rmwWrite | .rmwEnd => true

/-- The invariant of the machine: it holds right after reset and every step keeps it. -/
abbrev State.Inv (s : State) : Prop :=
  s.params.legal = true ∧ StatusInv s ∧ ResultInv s.host ∧ latchedOk s = true

/-! ## Safe runs -/

/-- What a claim about a run takes as a premise (spec/60_exceptions.md R195). -/
abbrev NoHostFault (s : State) : Prop := s.host.fault = false

/-- Everything the host can read of CIX, at all 64 offsets (R22). -/
abbrev SameHostView (s t : State) : Prop := ∀ off : Offset, hostRead t.host off = hostRead s.host off

end Sys2Proof.Machine
end

