-- ==== Sys2Proof/Certificates/Slice0/Obligations.lean ====
section
/-! DEFINITION. The statements about CIX for the provers, in the order of OBLIGATIONS.json. -/

open Sys2Proof Sys2Proof.Machine

/-! ## Encoding -/

/-- Words written out from the fields of R81 and the rows of R96 decode to the operations they stand for. The codes in
0x00010801, 0x00020401 and 0x00050301 are the default CMD_RECEIVE, CMD_TRANSMIT and CMD_CALCCRC, which R8 takes from
general knowledge (PRESUMED, log 12). -/
def Obligations.SpecWordsDecode : Prop :=
  decode defaultParams 0x00000001 = .legal (.idle 0)
    ∧ decode defaultParams 0x00100C01 = .legal (.transceive 16)
    ∧ decode defaultParams 0x00030E01 = .legal (.authent 3)
    ∧ decode defaultParams 0x00000F01 = .legal (.softReset 0)
    ∧ decode defaultParams 0x00010801 = .legal (.receive 1)
    ∧ decode defaultParams 0x00020401 = .legal (.transmit 2)
    ∧ decode defaultParams 0x00050301 = .legal (.calcCrc 5)
    ∧ decode defaultParams 0x00002602 = .legal .reqIdl
    ∧ decode defaultParams 0x00005202 = .legal .reqAll
    ∧ decode defaultParams 0x00000003 = .legal .anticoll
    ∧ decode defaultParams 0x00FF3F04 = .legal (.setBits 0x3F 0xFF)
    ∧ decode defaultParams 0x00800405 = .legal (.clearBits 0x04 0x80)
    ∧ decode defaultParams 0x00110C01 = .illegal .badLength
    ∧ decode defaultParams 0x00002702 = .illegal .badMode

/-- Every well-formed operation, with every operand its word admits, is what its word decodes to (R92, R96), whatever
legal codes the three `CMD_*` parameters have (R8). -/
def Obligations.DecodeEncodeRoundTrip : Prop :=
  ∀ (p : Params) (i : Instr), p.legal = true → i.wellFormed = true → decode p (encode p i) = .legal i

/-- Each legal word has one meaning, which encodes to that word and no other (R96: "No two rows match the same word"). -/
def Obligations.EncodeDecodeRoundTrip : Prop :=
  ∀ (p : Params) (w : Word) (i : Instr), decode p w = .legal i → i.wellFormed = true ∧ encode p i = w

/-- R93: exactly the words of its cases (a) to (h) are ILLEGAL; a GO of one is rejected; and the reset value of
OPW0..3 is one of them. -/
def Obligations.ReservedWordsAreRejected : Prop :=
  (∀ (p : Params) (w : Word),
    let op := w.extractLsb' 0 4
    let a := w.extractLsb' 8 8
    let b := w.extractLsb' 16 8
    (∃ why, decode p w = .illegal why) ↔
      (w.extractLsb' 24 8 ≠ 0 ∨ w.extractLsb' 4 4 ≠ 0
        ∨ (op ≠ 1 ∧ op ≠ 2 ∧ op ≠ 3 ∧ op ≠ 4 ∧ op ≠ 5)
        ∨ (op = 1 ∧ a ∉ [0x00, 0x0C, 0x0E, 0x0F, p.cmdReceive, p.cmdTransmit, p.cmdCalcCrc])
        ∨ (op = 1 ∧ 16 < b.toNat)
        ∨ (op = 2 ∧ ((a ≠ 0x26 ∧ a ≠ 0x52) ∨ b ≠ 0))
        ∨ (op = 3 ∧ (a ≠ 0 ∨ b ≠ 0))
        ∨ ((op = 4 ∨ op = 5) ∧ a.extractLsb' 6 2 ≠ 0)))
  ∧ (∀ (s : State) (v : Byte) (rest : List Move) (why : IllegalWord),
      s.params.legal = true → s.moves = .write 0x10 v :: rest → v.getLsbD 0 = true → s.host.busy = false →
      decode s.params (opWord s.host) = .illegal why →
      ∃ t, step s = .next t ∧ t.host.ill = true ∧ t.trace = s.trace)
  ∧ opWord State.reset.host = 0
  ∧ ∀ p : Params, ∃ why, decode p 0 = .illegal why

/-! ## Reset and parameters -/

/-- R220: reset, from any state, sets every host register to 0x00 and PHASE to IDLE, in one step with no PCD transaction;
so does the state the model starts in. A reset in mid-operation abandons it with no commit (R221). -/
def Obligations.ResetClearsEveryRegister : Prop :=
  (∀ off : Offset, hostRead State.reset.host off = 0x00) ∧ State.reset.work.phase = .idle
  ∧ ∀ (s : State) (rest : List Move), s.params.legal = true → s.moves = .reset :: rest →
      ∃ t, step s = .next t ∧ (∀ off : Offset, hostRead t.host off = 0x00) ∧ t.work.phase = .idle
        ∧ t.host.busy = false ∧ t.host.done = false ∧ t.host.ill = false ∧ t.host.fault = false
        ∧ t.host.xout = .ok ∧ t.host.pres = .success ∧ t.host.seq = .idle ∧ t.host.cause = .none
        ∧ t.trace = s.trace ∧ t.answers = s.answers ∧ t.seen = s.seen ∧ t.moves = rest

/-- No step, reset included, changes the bus address (R223) or a command code (that the parameters are fixed fields of
State is log 1), and every transaction a step adds to the trace is at the instance's own bus address (R63). A step adds
at most one (R13, R70). -/
def Obligations.BindingFixedForLife : Prop :=
  ∀ s t : State, step s = .next t →
    t.params = s.params ∧ (t.trace = s.trace ∨ ∃ x, t.trace = x :: s.trace ∧ txnDev x = s.params.busAddr)

/-- R8: a machine given parameters that are not distinct from each other and from 0x00, 0x0C, 0x0E and 0x0F does not
run. (How it is refused is the model's choice, log 24.) -/
def Obligations.IllegalParametersRefused : Prop :=
  ∀ s : State,
    (s.params.cmdReceive = s.params.cmdTransmit ∨ s.params.cmdReceive = s.params.cmdCalcCrc
      ∨ s.params.cmdTransmit = s.params.cmdCalcCrc
      ∨ ∃ c ∈ [s.params.cmdReceive, s.params.cmdTransmit, s.params.cmdCalcCrc],
          c = 0x00 ∨ c = 0x0C ∨ c = 0x0E ∨ c = 0x0F) →
    step s = .refused .illegalParameters

/-! ## The host port -/

/-- STATUS, RESULT, CAUSE and RBITS as the host reads them: the bit places of R23, R24, R25 and R27, and the codes of
R24 and R25. -/
def Obligations.StatusAndResultLayout : Prop :=
  (∀ h : HostRegs,
    ((hostRead h 0x00).getLsbD 0 = h.busy ∧ (hostRead h 0x00).getLsbD 1 = h.done ∧ (hostRead h 0x00).getLsbD 2 = h.ill
      ∧ (hostRead h 0x00).getLsbD 3 = h.fault ∧ (hostRead h 0x00).extractLsb' 4 4 = 0)
    ∧ ((hostRead h 0x01).extractLsb' 0 2 = xoutCode h.xout ∧ (hostRead h 0x01).extractLsb' 2 2 = presCode h.pres
      ∧ (hostRead h 0x01).extractLsb' 4 2 = seqCode h.seq ∧ (hostRead h 0x01).extractLsb' 6 2 = 0)
    ∧ ((hostRead h 0x02).extractLsb' 0 3 = causeCode h.cause ∧ (hostRead h 0x02).extractLsb' 3 5 = 0)
    ∧ (hostRead h 0x04).toNat + 256 * (hostRead h 0x05).toNat = h.rbits.toNat)
  ∧ (xoutCode .ok = 0 ∧ xoutCode .noCardDetected = 1 ∧ xoutCode .protocolError = 2)
  ∧ (presCode .success = 0 ∧ presCode .noCardFound = 1 ∧ presCode .noUidFound = 2 ∧ presCode .checksumMismatch = 3)
  ∧ (seqCode .idle = 0 ∧ seqCode .cardPresent = 1 ∧ seqCode .uidKnown = 2)
  ∧ (causeCode .none = 0 ∧ causeCode .timeout = 1 ∧ causeCode .chipError = 2 ∧ causeCode .noCard = 3
      ∧ causeCode .badLength = 4 ∧ causeCode .checksum = 5 ∧ causeCode .illegal = 6)

/-- R35: a host read of any offset, whether or not BUSY, changes nothing of CIX; the host gets the register's value. The
register is the one that the map of R22 puts there: RCOUNT, CARDTYPE, UIDk, OPWk, PAYLOADk and RDATAk here, STATUS,
RESULT, CAUSE and RBITS in `StatusAndResultLayout`, CTRL in `CtrlHoldsNoState`, the rest in `ReservedOffsetsAreInert`. -/
def Obligations.HostReadHasNoSideEffect : Prop :=
  (∀ (s : State) (off : Offset) (rest : List Move), s.params.legal = true → s.moves = .read off :: rest →
    step s = .next { s with moves := rest, seen := (off, hostRead s.host off) :: s.seen })
  ∧ ∀ (h : HostRegs) (off : Offset),
      hostRead h 0x03 = h.rcount ∧ hostRead h 0x06 = h.cardtype
      ∧ (∀ k : Fin 4, off.toNat = 0x07 + k.val → hostRead h off = h.uid[k])
      ∧ (∀ k : Fin 4, off.toNat = 0x0C + k.val → hostRead h off = h.opw[k])
      ∧ (∀ k : Fin 16, off.toNat = 0x20 + k.val → hostRead h off = h.payload[k])
      ∧ (∀ k : Fin 16, off.toNat = 0x30 + k.val → hostRead h off = h.rdata[k])

/-- R34: reserved offsets read 0x00, and a host write to a reserved or read-only offset changes no state, whether or not
BUSY is set. -/
def Obligations.ReservedOffsetsAreInert : Prop :=
  (∀ (h : HostRegs) (off : Offset), off.toNat = 0x0B ∨ (0x11 ≤ off.toNat ∧ off.toNat ≤ 0x1F) → hostRead h off = 0x00)
  ∧ ∀ (s : State) (off : Offset) (v : Byte) (rest : List Move),
      off.toNat ≤ 0x0B ∨ (0x11 ≤ off.toNat ∧ off.toNat ≤ 0x1F) ∨ 0x30 ≤ off.toNat →
      s.params.legal = true → s.moves = .write off v :: rest → step s = .next { s with moves := rest }

/-- R36: with BUSY = 0 a host write to OPWk or PAYLOADk stores the byte there; every other offset reads as before, and
nothing else of CIX changes. -/
def Obligations.HostWriteStoresOneByte : Prop :=
  ∀ (s : State) (off : Offset) (v : Byte) (rest : List Move),
    (0x0C ≤ off.toNat ∧ off.toNat ≤ 0x0F) ∨ (0x20 ≤ off.toNat ∧ off.toNat ≤ 0x2F) →
    s.params.legal = true → s.moves = .write off v :: rest → s.host.busy = false →
    ∃ t, step s = .next t ∧ hostRead t.host off = v ∧ (∀ o : Offset, o ≠ off → hostRead t.host o = hostRead s.host o)
      ∧ t.work = s.work ∧ t.trace = s.trace ∧ t.answers = s.answers ∧ t.seen = s.seen ∧ t.moves = rest

/-- R31: CTRL reads 0x00 and holds no state: a write with bit 0 clear has no effect when BUSY = 0, and bits 7:1 of a GO
are ignored. -/
def Obligations.CtrlHoldsNoState : Prop :=
  (∀ h : HostRegs, hostRead h 0x10 = 0x00)
  ∧ (∀ (s : State) (v : Byte) (rest : List Move), s.params.legal = true → s.moves = .write 0x10 v :: rest →
      s.host.busy = false → v.getLsbD 0 = false → step s = .next { s with moves := rest })
  ∧ ∀ (s : State) (v w : Byte) (rest : List Move), v.getLsbD 0 = w.getLsbD 0 →
      step { s with moves := .write 0x10 v :: rest } = step { s with moves := .write 0x10 w :: rest }

/-- R194: a host write to OPW0..3, CTRL (whatever the value) or PAYLOAD0..15 while BUSY is dropped and sets FAULT; the
operation in flight is untouched. -/
def Obligations.HostWriteWhileBusyFaults : Prop :=
  ∀ (s : State) (off : Offset) (v : Byte) (rest : List Move),
    (0x0C ≤ off.toNat ∧ off.toNat ≤ 0x10) ∨ (0x20 ≤ off.toNat ∧ off.toNat ≤ 0x2F) →
    s.params.legal = true → s.moves = .write off v :: rest → s.host.busy = true →
    step s = .next { s with moves := rest, host := { s.host with fault := true } }

/-- R192: a GO of an illegal word with BUSY = 0 is one step that sets ILL, DONE and CAUSE = 6 and changes nothing else:
no PCD transaction, and OPW keeps the word. A host then reads 6 at CAUSE, and DONE and ILL set at STATUS. -/
def Obligations.IllegalOperationIsPrecise : Prop :=
  ∀ (s : State) (v : Byte) (rest : List Move) (why : IllegalWord),
    s.params.legal = true → s.moves = .write 0x10 v :: rest → v.getLsbD 0 = true → s.host.busy = false →
    decode s.params (opWord s.host) = .illegal why →
    ∃ t, step s = .next t
      ∧ t = { s with moves := rest, host := { s.host with ill := true, done := true, cause := .illegal } }
      ∧ hostRead t.host 0x02 = 0x06
      ∧ hostRead t.host 0x00 = (if s.host.fault then 0x0E else 0x06)

/-! ## A step runs the decoded operation -/

/-- A GO with BUSY = 0 whose word in OPW decodes to `i` (R31, R95): the step is `exec i` of the state, with the host's
move taken off the list of moves. -/
def Obligations.StepRunsIssuedWord : Prop :=
  ∀ (s : State) (v : Byte) (rest : List Move) (i : Instr),
    s.params.legal = true → s.moves = .write 0x10 v :: rest → v.getLsbD 0 = true → s.host.busy = false →
    decode s.params (opWord s.host) = .legal i → step s = exec i { s with moves := rest }

/-- While an operation is in flight, a step that is CIX's is `exec` of the operation latched in OPL: when no move is
left, when the move grants CIX a step, and while the host waits for BUSY = 0. (The list of moves is the model's, log 5.) -/
def Obligations.StepContinuesLatchedOperation : Prop :=
  ∀ (s : State) (i : Instr), s.params.legal = true → s.work.phase ≠ .idle →
    decode s.params s.work.opl = .legal i →
    (s.moves = [] → step s = exec i s)
    ∧ (∀ rest, s.moves = .cix :: rest → step s = exec i { s with moves := rest })
    ∧ (∀ rest, s.moves = .waitDone :: rest → s.host.busy = true → step s = exec i s)

/-- R222: with no operation in flight and no move of the host's left, CIX waits: the state does not change. -/
def Obligations.IdleMachineWaits : Prop :=
  ∀ s : State, s.params.legal = true → s.work.phase = .idle →
    (s.moves = [] → step s = .next s) ∧ ∀ rest, s.moves = .cix :: rest → step s = .next { s with moves := rest }

/-- The word of every well-formed operation, put in place by `withFetchWord`, is run by the very next step. (How a
program comes to run is log 16.) -/
def Obligations.PlacedWordRunsNext : Prop :=
  ∀ (s : State) (i : Instr), s.params.legal = true → i.wellFormed = true →
    step (s.withFetchWord 32 (encode s.params i).toNat)
      = exec i { s with
          host := { s.host with busy := false, opw := opwOfWord (encode s.params i) }
          work := { s.work with phase := .idle } }

/-! ## Acceptance -/

/-- R95, R120 and R121 for EXEC.IDLE, EXEC.TRANSCEIVE, EXEC.AUTHENT, EXEC.SOFTRESET, EXEC.RECEIVE, EXEC.TRANSMIT and
EXEC.CALCCRC (`execForm` gives each its code and L): acceptance latches the word and the first L payload bytes, sets
BUSY, clears DONE and ILL, selects the masks, and makes no PCD transaction. -/
def Obligations.ExecAcceptance : Prop :=
  ∀ (s : State) (i : Instr) (cmd l : Byte), execForm s.params i = some (cmd, l) → l.toNat ≤ 16 →
    s.work.phase = .idle →
    ∃ wpay : Vector Byte 16,
      (∀ k, k < 16 → byteAt wpay k = if k < l.toNat then byteAt s.host.payload k else byteAt s.work.wpay k)
      ∧ exec i s = .next { s with
          host := { s.host with busy := true, done := false, ill := false }
          work := { s.work with
            opl := opWord s.host, wpay := wpay, cmd := cmd, wlen := l.setWidth 5
            wxout := .protocolError, wcause := .none, wbits := 0, wcount := 0, wdata := .replicate 16 0
            irqen := if cmd = 0x0E then 0x12 else if cmd = 0x0C then 0x77 else 0x00
            waitirq := if cmd = 0x0E then 0x10 else if cmd = 0x0C then 0x30 else 0x00
            phase := .xchg .enable } }

/-- R95 for REQUEST.REQIDL, REQUEST.REQALL, ANTICOLL, SETBITS and CLEARBITS: acceptance latches the word, sets BUSY,
clears DONE and ILL, enters the operation's first phase, and changes nothing else. -/
def Obligations.ProtocolAndMaskAcceptance : Prop :=
  ∀ s : State, s.work.phase = .idle →
    (∀ i ∈ [Instr.reqIdl, Instr.reqAll, Instr.anticoll],
      exec i s = .next { s with
        host := { s.host with busy := true, done := false, ill := false }
        work := { s.work with opl := opWord s.host, phase := .protoPre } })
    ∧ ∀ (reg : RegAddr) (m : Byte), ∀ i ∈ [Instr.setBits reg m, Instr.clearBits reg m],
      exec i s = .next { s with
        host := { s.host with busy := true, done := false, ill := false }
        work := { s.work with opl := opWord s.host, phase := .rmwRead } }

/-- An EXEC with L above 16, which no word decodes to, is rejected as R93 (e) and R192 say (the model's choice for a term
that is not well formed, log 11). -/
def Obligations.OverlongExecRejected : Prop :=
  ∀ (s : State) (i : Instr) (cmd l : Byte), execForm s.params i = some (cmd, l) → 16 < l.toNat →
    s.work.phase = .idle →
    exec i s = .next { s with host := { s.host with ill := true, done := true, cause := .illegal } }

/-! ## The exchange, transaction by transaction -/

/-- R122 and R123: from its first position every exchange makes six transactions: ComIEnReg is written IRQEN | 0x80,
ComIrqReg is read and written back with bit 7 clear, FIFOLevelReg is read and written back with bit 7 set, and
CommandReg is written Idle. (That it is bit 7 of ComIrqReg and of FIFOLevelReg is what R122 takes from general
knowledge: PRESUMED, log 13.) -/
def Obligations.ExchangeArmsFlushesAndIdles : Prop :=
  ∀ (s : State) (i : Instr), runsExchange i = true → s.work.phase = .xchg .enable →
    ∃ (a b : Byte) (t : State), runOp i 6 s = .next t
      ∧ t.trace = [.wr s.params.busAddr 0x01 0x00, .wr s.params.busAddr 0x0A (b ||| 0x80), .rd s.params.busAddr 0x0A b,
          .wr s.params.busAddr 0x04 (a &&& 0x7F), .rd s.params.busAddr 0x04 a,
          .wr s.params.busAddr 0x02 (s.work.irqen ||| 0x80)] ++ s.trace
      ∧ t.work.phase = (if s.work.wlen = 0 then .xchg .start else .xchg .push) ∧ t.work.k = 0
      ∧ t.work.cmd = s.work.cmd ∧ t.work.wlen = s.work.wlen ∧ t.work.wpay = s.work.wpay
      ∧ t.work.irqen = s.work.irqen ∧ t.work.waitirq = s.work.waitirq ∧ t.host = s.host
      ∧ ∀ (a' b' : Byte) (rest : List Byte), s.answers = a' :: b' :: rest → a = a' ∧ b = b' ∧ t.answers = rest

/-- R124 and R125: from the write of Idle, an exchange writes exactly WPAY0 to WPAY(WLEN-1) to FIFODataReg, in order, and
then CMD to CommandReg; it reads nothing. -/
def Obligations.PayloadPushedInOrder : Prop :=
  ∀ (s : State) (i : Instr), runsExchange i = true → s.work.phase = .xchg .loadIdle → s.work.wlen.toNat ≤ 16 →
    ∃ t, runOp i (s.work.wlen.toNat + 2) s = .next t
      ∧ t.trace = .wr s.params.busAddr 0x01 s.work.cmd
          :: ((List.range s.work.wlen.toNat).map fun k => .wr s.params.busAddr 0x09 (byteAt s.work.wpay k)).reverse
          ++ .wr s.params.busAddr 0x01 0x00 :: s.trace
      ∧ t.answers = s.answers ∧ t.host = s.host ∧ t.work.cmd = s.work.cmd ∧ t.work.irqen = s.work.irqen
      ∧ t.work.waitirq = s.work.waitirq
      ∧ (s.work.cmd = 0x0C → t.work.phase = .xchg .sendRead)
      ∧ (s.work.cmd ≠ 0x0C → t.work.phase = .xchg .poll ∧ t.work.i.toNat = 2000)

/-- R126: after the command write, Transceive reads BitFramingReg and writes it back with bit 7 set, and the poll begins
with 2000 iterations. (Other commands begin the poll at once: `PayloadPushedInOrder`. That bit 7 is the start-send bit is
what R126 takes from general knowledge: PRESUMED, log 13.) -/
def Obligations.StartSendSetsBitSeven : Prop :=
  ∀ (s : State) (i : Instr), runsExchange i = true → s.work.phase = .xchg .sendRead →
    runOp i 2 s = .next { s with
      answers := s.answers.tail
      trace := .wr s.params.busAddr 0x0D (pcdAnswer 0x0D s ||| 0x80) :: .rd s.params.busAddr 0x0D (pcdAnswer 0x0D s)
        :: s.trace
      work := { s.work with t := pcdAnswer 0x0D s, i := 2000, phase := .xchg .poll } }

/-- R127 and R128, one iteration of the poll: ComIrqReg is read into NIRQ and I is decremented; I = 0 takes the timeout
path whatever was read (R129), else bit 0 or a WAITIRQ bit takes the completion path, else the poll goes on. -/
def Obligations.PollIteration : Prop :=
  ∀ (s : State) (i : Instr), runsExchange i = true → s.work.phase = .xchg .poll →
    ∃ n : Byte, n = pcdAnswer 0x04 s
      ∧ (s.work.i = 1 →
          exec i s = .next { s with
            answers := s.answers.tail, trace := .rd s.params.busAddr 0x04 n :: s.trace
            work := { s.work with
              nirq := n, i := 0, wxout := .protocolError, wcause := .timeout, phase := endPhase i } })
      ∧ (s.work.i ≠ 1 → (n.getLsbD 0 = true ∨ n &&& s.work.waitirq ≠ 0) →
          exec i s = .next { s with
            answers := s.answers.tail, trace := .rd s.params.busAddr 0x04 n :: s.trace
            work := { s.work with nirq := n, i := s.work.i - 1, phase := .xchg .error } })
      ∧ (s.work.i ≠ 1 → n.getLsbD 0 = false → n &&& s.work.waitirq = 0 →
          exec i s = .next { s with
            answers := s.answers.tail, trace := .rd s.params.busAddr 0x04 n :: s.trace
            work := { s.work with nirq := n, i := s.work.i - 1, phase := .xchg .poll } })

/-- R128: a completion that read number P shows first, with iterations left after it, ends the poll after exactly P reads
of ComIrqReg, with NIRQ the value of the last. -/
def Obligations.PollStopsAtFirstCompletion : Prop :=
  ∀ (s : State) (i : Instr) (misses : List Byte) (n : Byte) (rest : List Byte), runsExchange i = true →
    s.work.phase = .xchg .poll → s.answers = misses ++ n :: rest →
    (∀ x ∈ misses, x.getLsbD 0 = false ∧ x &&& s.work.waitirq = 0) →
    (n.getLsbD 0 = true ∨ n &&& s.work.waitirq ≠ 0) → misses.length + 1 < s.work.i.toNat →
    ∃ t, runOp i (misses.length + 1) s = .next t ∧ t.work.phase = .xchg .error ∧ t.work.nirq = n
      ∧ t.work.i.toNat = s.work.i.toNat - (misses.length + 1) ∧ t.answers = rest ∧ t.host = s.host
      ∧ t.trace = .rd s.params.busAddr 0x04 n
          :: (misses.map fun x => .rd s.params.busAddr 0x04 x).reverse ++ s.trace

/-- R128 and R129: when no read before the last of the budget shows completion, the poll makes exactly the reads the
budget allows and ends as ProtocolError with CAUSE = TIMEOUT, whatever the last read returned. -/
def Obligations.PollTimesOutAtBudget : Prop :=
  ∀ (s : State) (i : Instr) (misses : List Byte) (n : Byte) (rest : List Byte), runsExchange i = true →
    s.work.phase = .xchg .poll → s.answers = misses ++ n :: rest →
    (∀ x ∈ misses, x.getLsbD 0 = false ∧ x &&& s.work.waitirq = 0) → misses.length + 1 = s.work.i.toNat →
    ∃ t, runOp i (misses.length + 1) s = .next t ∧ t.work.phase = endPhase i ∧ t.work.i = 0
      ∧ t.work.wxout = .protocolError ∧ t.work.wcause = .timeout
      ∧ t.work.wbits = s.work.wbits ∧ t.work.wcount = s.work.wcount ∧ t.work.wdata = s.work.wdata
      ∧ t.answers = rest ∧ t.host = s.host
      ∧ t.trace = .rd s.params.busAddr 0x04 n
          :: (misses.map fun x => .rd s.params.busAddr 0x04 x).reverse ++ s.trace

/-- R130 to R132: ErrorReg is read; a bit of 0x1B gives ProtocolError and CHIP_ERROR and no read-back; else the timer bit
under an enabled bit 0 gives NoCardDetected, else Ok, and only Transceive reads back. With the masks of R121, only
Transceive gives NoCardDetected. -/
def Obligations.ErrorRegisterDecidesOutcome : Prop :=
  (∀ (s : State) (i : Instr) (e : Byte), runsExchange i = true → s.work.phase = .xchg .error → e = pcdAnswer 0x06 s →
    (e &&& 0x1B ≠ 0 →
      exec i s = .next { s with
        answers := s.answers.tail, trace := .rd s.params.busAddr 0x06 e :: s.trace
        work := { s.work with errv := e, wxout := .protocolError, wcause := .chipError, phase := endPhase i } })
    ∧ (e &&& 0x1B = 0 → s.work.nirq &&& s.work.irqen &&& 0x01 ≠ 0 →
      exec i s = .next { s with
        answers := s.answers.tail, trace := .rd s.params.busAddr 0x06 e :: s.trace
        work := { s.work with
          errv := e, wxout := .noCardDetected, wcause := .noCard
          phase := if s.work.cmd = 0x0C then .xchg .level else endPhase i } })
    ∧ (e &&& 0x1B = 0 → s.work.nirq &&& s.work.irqen &&& 0x01 = 0 →
      exec i s = .next { s with
        answers := s.answers.tail, trace := .rd s.params.busAddr 0x06 e :: s.trace
        work := { s.work with
          errv := e, wxout := .ok, wcause := .none
          phase := if s.work.cmd = 0x0C then .xchg .level else endPhase i } }))
  ∧ ∀ (cmd n : Byte), cmd ≠ 0x0C → n &&& irqEnableMask cmd &&& 0x01 = 0

/-- R133 to R135: FIFOLevelReg is read whole and ControlReg's low three bits; WBITS is the exact bit length from the
unclamped level, and WCOUNT the level clamped to 1..16. -/
def Obligations.ReadBackLengthAndCount : Prop :=
  ∀ (s : State) (i : Instr), runsExchange i = true → s.work.phase = .xchg .level →
    ∃ (lvl c : Byte) (t : State), runOp i 2 s = .next t
      ∧ t.trace = .rd s.params.busAddr 0x0C c :: .rd s.params.busAddr 0x0A lvl :: s.trace
      ∧ t.work.lvl = lvl ∧ t.work.lb.toNat = c.toNat % 8
      ∧ t.work.wbits.toInt
          = (if c.toNat % 8 = 0 then (lvl.toNat : Int) * 8 else ((lvl.toNat : Int) - 1) * 8 + (c.toNat % 8 : Nat))
      ∧ -7 ≤ t.work.wbits.toInt ∧ t.work.wbits.toInt ≤ 2040
      ∧ t.work.wcount.toNat = (if lvl = 0 then 1 else if 16 < lvl.toNat then 16 else lvl.toNat)
      ∧ t.work.k = 0 ∧ t.work.phase = .xchg .fetch ∧ t.work.wdata = s.work.wdata ∧ t.host = s.host
      ∧ ∀ (l' c' : Byte) (rest : List Byte), s.answers = l' :: c' :: rest → lvl = l' ∧ c = c' ∧ t.answers = rest

/-- R136: exactly WCOUNT bytes are read from FIFODataReg, in order, into WDATA0 to WDATA(WCOUNT-1); the other entries keep
their value, and the exchange ends. -/
def Obligations.ResponseReadInOrder : Prop :=
  ∀ (s : State) (i : Instr) (data rest : List Byte), runsExchange i = true → s.work.phase = .xchg .fetch →
    s.work.k = 0 → 1 ≤ s.work.wcount.toNat → s.work.wcount.toNat ≤ 16 → data.length = s.work.wcount.toNat →
    s.answers = data ++ rest →
    ∃ t, runOp i s.work.wcount.toNat s = .next t
      ∧ (∀ k, k < 16 → byteAt t.work.wdata k = if k < data.length then data.getD k 0 else byteAt s.work.wdata k)
      ∧ t.work.phase = endPhase i ∧ t.answers = rest ∧ t.host = s.host
      ∧ t.work.wbits = s.work.wbits ∧ t.work.wcount = s.work.wcount ∧ t.work.wxout = s.work.wxout
      ∧ t.work.wcause = s.work.wcause
      ∧ t.trace = (data.map fun x => .rd s.params.busAddr 0x09 x).reverse ++ s.trace

/-- R147: the response length lies in the range of the last byte read exactly when 1 <= LVL <= 16; LVL = 0 gives one byte
and a length from -7 to 0, and LVL > 16 gives 16 bytes and a length of 129 or more. -/
def Obligations.LengthFitsCountExactlyUpToSixteen : Prop :=
  ∀ (lvl : Byte) (lb : BitVec 3),
    (backLen lvl lb ≤ (clampCount lvl).toNat * 8 ∧ ((clampCount lvl).toNat - 1 : Int) * 8 < backLen lvl lb
      ↔ 1 ≤ lvl.toNat ∧ lvl.toNat ≤ 16)
    ∧ (lvl = 0 → (clampCount lvl).toNat = 1 ∧ -7 ≤ backLen lvl lb ∧ backLen lvl lb ≤ 0)
    ∧ (16 < lvl.toNat → (clampCount lvl).toNat = 16 ∧ 129 ≤ backLen lvl lb)

/-- R165: RBITS is 16 after a read-back exactly when the level read is 2 and the valid-bit count 0, and then two bytes are
read. -/
def Obligations.SixteenBitsMeansTwoWholeBytes : Prop :=
  ∀ (lvl : Byte) (lb : BitVec 3),
    (BitVec.ofInt 16 (backLen lvl lb) = 16 ↔ lvl = 2 ∧ lb = 0)
    ∧ (BitVec.ofInt 16 (backLen lvl lb) = 16 → clampCount lvl = 2)

/-! ## Commits -/

/-- R138, for all seven EXEC variants (`execForm`): the commit writes XOUT, CAUSE, RCOUNT, RBITS and RDATA, clears BUSY,
sets DONE, returns to IDLE, and changes nothing else: PRES, SEQ, CARDTYPE, UID, OPW and PAYLOAD keep their values. -/
def Obligations.ExecCommit : Prop :=
  ∀ (s : State) (i : Instr) (cmd l : Byte), execForm s.params i = some (cmd, l) → s.work.phase = .xchgEnd →
    exec i s = .next { s with
      host := { s.host with
        xout := s.work.wxout, cause := s.work.wcause, rcount := s.work.wcount.setWidth 8, rbits := s.work.wbits
        rdata := s.work.wdata, busy := false, done := true }
      work := { s.work with phase := .idle } }

/-- R161 and R162, R176 and R177: a REQUEST writes 0x07 and an ANTICOLL 0x00 to BitFramingReg, and the exchange begins with
Transceive's masks, the frame `mode`, or 0x93 0x20, and the initial values of R120. (The value 0x07 is what R161 takes
from general knowledge: PRESUMED, log 13.) -/
def Obligations.ProtocolFramesBeforeExchange : Prop :=
  ∀ s : State, s.work.phase = .protoPre →
    (∀ (i : Instr) (mode : Byte), (i = .reqIdl ∧ mode = 0x26) ∨ (i = .reqAll ∧ mode = 0x52) →
      ∃ t, exec i s = .next t ∧ t.trace = .wr s.params.busAddr 0x0D 0x07 :: s.trace ∧ t.host = s.host
        ∧ t.work.phase = .xchg .enable ∧ t.work.cmd = 0x0C ∧ t.work.wlen = 1 ∧ t.work.irqen = 0x77
        ∧ t.work.waitirq = 0x30 ∧ byteAt t.work.wpay 0 = mode ∧ t.answers = s.answers
        ∧ t.work.wxout = .protocolError ∧ t.work.wcause = .none ∧ t.work.wbits = 0 ∧ t.work.wcount = 0
        ∧ t.work.wdata = .replicate 16 0 ∧ t.work.opl = s.work.opl)
    ∧ ∃ t, exec .anticoll s = .next t ∧ t.trace = .wr s.params.busAddr 0x0D 0x00 :: s.trace ∧ t.host = s.host
        ∧ t.work.phase = .xchg .enable ∧ t.work.cmd = 0x0C ∧ t.work.wlen = 2 ∧ t.work.irqen = 0x77
        ∧ t.work.waitirq = 0x30 ∧ byteAt t.work.wpay 0 = 0x93 ∧ byteAt t.work.wpay 1 = 0x20 ∧ t.answers = s.answers
        ∧ t.work.wxout = .protocolError ∧ t.work.wcause = .none ∧ t.work.wbits = 0 ∧ t.work.wcount = 0
        ∧ t.work.wdata = .replicate 16 0 ∧ t.work.opl = s.work.opl

/-- R163 and R164, for REQUEST.REQIDL and REQUEST.REQALL: the validation and the commit. UID, OPW and PAYLOAD keep their
values. -/
def Obligations.RequestCommit : Prop :=
  ∀ (s : State) (i : Instr), i = .reqIdl ∨ i = .reqAll → s.work.phase = .post →
    ∃ (ok : Bool) (cause : Cause),
      (ok = true ↔ s.work.wxout ≠ .protocolError ∧ s.work.wbits = 16)
      ∧ (s.work.wxout = .protocolError → cause = s.work.wcause)
      ∧ (s.work.wxout ≠ .protocolError → s.work.wbits ≠ 16 →
          cause = if s.work.wxout = .noCardDetected then .noCard else .badLength)
      ∧ (ok = true → cause = .none)
      ∧ exec i s = .next { s with
          host := { s.host with
            xout := s.work.wxout, cause := cause, rcount := s.work.wcount.setWidth 8, rbits := s.work.wbits
            rdata := s.work.wdata
            pres := if ok then .success else .noCardFound, seq := if ok then .cardPresent else .idle
            cardtype := if ok then byteAt s.work.wdata 0 else 0x00
            busy := false, done := true }
          work := { s.work with phase := .idle } }

/-- R178 to R181, for ANTICOLL: the outcome, then the byte count, then the checksum; and the commit. CARDTYPE, OPW and
PAYLOAD keep their values. The byte count is five exactly when the FIFO level read was five. -/
def Obligations.AnticollCommit : Prop :=
  (∀ s : State, s.work.phase = .post →
    ∃ (pres : PRes) (cause : Cause) (uid : Vector Byte 4),
      (s.work.wxout ≠ .ok → pres = .noUidFound ∧ cause = s.work.wcause)
      ∧ (s.work.wxout = .ok → s.work.wcount ≠ 5 → pres = .noUidFound ∧ cause = .badLength)
      ∧ (s.work.wxout = .ok → s.work.wcount = 5 →
          (byteAt s.work.wdata 0 ^^^ byteAt s.work.wdata 1 ^^^ byteAt s.work.wdata 2 ^^^ byteAt s.work.wdata 3
              = byteAt s.work.wdata 4 → pres = .success ∧ cause = .none)
          ∧ (byteAt s.work.wdata 0 ^^^ byteAt s.work.wdata 1 ^^^ byteAt s.work.wdata 2 ^^^ byteAt s.work.wdata 3
              ≠ byteAt s.work.wdata 4 → pres = .checksumMismatch ∧ cause = .checksum))
      ∧ (∀ k, k < 4 → byteAt uid k = if pres = .success then byteAt s.work.wdata k else 0x00)
      ∧ exec .anticoll s = .next { s with
          host := { s.host with
            xout := s.work.wxout, cause := cause, rcount := s.work.wcount.setWidth 8, rbits := s.work.wbits
            rdata := s.work.wdata
            pres := pres, seq := if pres = .success then .uidKnown else .idle, uid := uid
            busy := false, done := true }
          work := { s.work with phase := .idle } })
  ∧ ∀ lvl : Byte, clampCount lvl = 5 ↔ lvl = 5

/-- R182: an ANTICOLL succeeds exactly when its outcome is Ok, five bytes were read and the checksum matches; the bit
length, 40 or 33 to 39 with a level of five, does not count. -/
def Obligations.AnticollSuccessCondition : Prop :=
  (∀ s : State, s.work.phase = .post →
    ∃ t, exec .anticoll s = .next t
      ∧ (t.host.pres = .success ↔ t.host.xout = .ok ∧ t.host.rcount = 5
          ∧ byteAt t.host.rdata 0 ^^^ byteAt t.host.rdata 1 ^^^ byteAt t.host.rdata 2 ^^^ byteAt t.host.rdata 3
              = byteAt t.host.rdata 4)
      ∧ ∀ bits : BitVec 16, ∃ u, exec .anticoll { s with work := { s.work with wbits := bits } } = .next u
          ∧ u.host.pres = t.host.pres ∧ u.host.uid = t.host.uid)
  ∧ ∀ lb : BitVec 3, (BitVec.ofInt 16 (backLen 5 lb)).toInt = if lb = 0 then 40 else 32 + (lb.toNat : Int)

/-! ## SETBITS and CLEARBITS -/

/-- R110 and R111, with R112, R113 and R37: from IDLE, SETBITS and CLEARBITS are four steps: acceptance, a read of `reg`, a
write of the value read with the mask's bits set or cleared, and a commit that changes no result field. The write
always happens. -/
def Obligations.MaskOperationsReadModifyWrite : Prop :=
  ∀ (s : State) (reg : RegAddr) (m : Byte), s.work.phase = .idle →
    ∃ v : Byte, v = pcdAnswer reg s
      ∧ runOp (.setBits reg m) 4 s = .next { s with
          host := { s.host with busy := false, done := true, ill := false }
          work := { s.work with opl := opWord s.host, t := v, phase := .idle }
          answers := s.answers.tail
          trace := .wr s.params.busAddr reg (v ||| m) :: .rd s.params.busAddr reg v :: s.trace }
      ∧ runOp (.clearBits reg m) 4 s = .next { s with
          host := { s.host with busy := false, done := true, ill := false }
          work := { s.work with opl := opWord s.host, t := v, phase := .idle }
          answers := s.answers.tail
          trace := .wr s.params.busAddr reg (v &&& ~~~m) :: .rd s.params.busAddr reg v :: s.trace }

/-- The steps of SETBITS and CLEARBITS one by one, to the commit with no result field (R112, R113, R37). -/
def Obligations.MaskOperationSteps : Prop :=
  ∀ (s : State) (reg : RegAddr) (m : Byte), ∀ i ∈ [Instr.setBits reg m, Instr.clearBits reg m],
    (s.work.phase = .rmwRead →
      exec i s = .next { s with
        work := { s.work with t := pcdAnswer reg s, phase := .rmwWrite }
        answers := s.answers.tail, trace := .rd s.params.busAddr reg (pcdAnswer reg s) :: s.trace })
    ∧ (s.work.phase = .rmwWrite → ∃ v : Byte, (i = .setBits reg m → v = s.work.t ||| m)
        ∧ (i = .clearBits reg m → v = s.work.t &&& ~~~m)
        ∧ exec i s = .next { s with
            work := { s.work with phase := .rmwEnd }, trace := .wr s.params.busAddr reg v :: s.trace })
    ∧ (s.work.phase = .rmwEnd →
      exec i s = .next { s with
        host := { s.host with busy := false, done := true }, work := { s.work with phase := .idle } })

/-! ## Every operation goes on in its phases -/

/-- R41: in each phase of its own, each of the twelve operations answers a next state, whatever the PCD answers; in a
phase it never enters it stops (the model's own stop, log 10). -/
def Obligations.OperationsGoOnInTheirPhases : Prop :=
  ∀ (i : Instr) (s : State),
    (ownsPhase i s.work.phase = true → ∃ t, exec i s = .next t)
    ∧ (ownsPhase i s.work.phase = false → exec i s = .fault .foreignPhase)

/-- R61 and R62: EXEC, REQUEST and ANTICOLL access no PCD register but CommandReg, ComIEnReg, ComIrqReg, ErrorReg,
FIFODataReg, FIFOLevelReg, ControlReg and BitFramingReg, and a bit-mask operation none but its own `reg`. -/
def Obligations.OnlyNamedPcdRegistersAccessed : Prop :=
  ∀ (i : Instr) (s t : State) (x : Txn), exec i s = .next t → t.trace = x :: s.trace →
    (runsExchange i = true → txnAddr x ∈ ([0x01, 0x02, 0x04, 0x06, 0x09, 0x0A, 0x0C, 0x0D] : List RegAddr))
    ∧ ∀ (reg : RegAddr) (m : Byte), i = .setBits reg m ∨ i = .clearBits reg m → txnAddr x = reg

/-! ## Rules of the whole machine -/

/-- The invariant holds right after reset. -/
def Obligations.ResetMeetsInvariant : Prop := State.reset.Inv

/-- From every state that meets the invariant, every step gives one that meets it: BUSY agrees with PHASE and excludes DONE
and ILL (R23, R41); the results keep the ranges of R26, R27 and R33; a failure leaves SEQ Idle, CARDTYPE or UID zero
(R24, R28, R29); the operation in flight is the latched one, in a phase of its own, with its own masks and lengths
(R95, R121). -/
def Obligations.EveryStepKeepsInvariant : Prop :=
  ∀ s t : State, s.Inv → step s = .next t → t.Inv

/-- From every state that meets the invariant the machine goes on, whatever the host does and the PCD answers: no exchange
failure, rejection or host-protocol fault stops it (R190, R191, R198). -/
def Obligations.MachineNeverStops : Prop :=
  ∀ s : State, s.Inv → ∃ t, step s = .next t

/-- R37: between the acceptance of an operation and its commit no host register changes except STATUS.FAULT, whatever the
host does; so a host read meanwhile returns the previous results (R35). -/
def Obligations.HostRegistersFrozenWhileBusy : Prop :=
  ∀ s t : State, s.host.busy = true → step s = .next t → t.host.busy = true →
    t.host = { s.host with fault := t.host.fault }

/-- R195: no step but a reset clears FAULT, and every operation runs as if FAULT were 0: the same steps, the same results,
whatever FAULT is. -/
def Obligations.FaultIsStickyAndInert : Prop :=
  (∀ s t : State, s.host.fault = true → step s = .next t → t.host.fault = false → ∃ rest, s.moves = .reset :: rest)
  ∧ ∀ (i : Instr) (s t : State) (b : Bool), exec i s = .next t →
      exec i { s with host := { s.host with fault := b } } = .next { t with host := { t.host with fault := b } }

/-- R149 and R237: left to itself, every operation in flight ends: whatever the PCD answers, BUSY clears and DONE is set
after at most 2043 transactions and the commit step. (An empty list of moves grants CIX every step, log 5; every
transaction completes, log 14.) -/
def Obligations.EveryOperationEnds : Prop :=
  ∀ s : State, s.Inv → s.host.busy = true → s.moves = [] →
    ∃ (n : Nat) (t : State), n ≤ 2044 ∧ run n s = .next t ∧ t.host.busy = false ∧ t.host.done = true
      ∧ t.work.phase = .idle ∧ t.trace.length ≤ s.trace.length + 2043

/-- The assembler's lines (R97, R98). The host sequence of a line that has a word stores that word in OPW0..3 and leaves
the GO as the next move. The word of each line is OP | A << 8 | B << 16 with the operands of R82, R85, R87, R88 and the
addresses of R61, and each pseudo-instruction has the word R98 prints. LDPAY is one write of PAYLOADk, and WAITDONE ends
on a read of STATUS with BUSY = 0. (WAITDONE as one move, of which only the last read is noted, is log 6.) -/
def Obligations.AssembledLineIssuesItsWord : Prop :=
  (∀ (s : State) (line : AsmLine) (w : Word) (rest : List Move), s.params.legal = true → s.host.busy = false →
    assemble s.params line = some w → s.moves = hostSequence s.params line ++ rest →
    ∃ t, run 4 s = .next t ∧ opWord t.host = w ∧ t.moves = .write 0x10 0x01 :: rest
      ∧ t.host = { s.host with opw := t.host.opw } ∧ t.work = s.work ∧ t.trace = s.trace)
  ∧ (∀ p : Params,
      let word := fun (op : Word) (a b : Byte) => op ||| a.setWidth 32 <<< 8 ||| b.setWidth 32 <<< 16
      (∀ (c : AsmCmd) (a l : Byte),
        (c, a) ∈ [(.idle, 0x00), (.transceive, 0x0C), (.authent, 0x0E), (.softReset, 0x0F), (.receive, p.cmdReceive),
          (.transmit, p.cmdTransmit), (.calcCrc, p.cmdCalcCrc)] ∨ c = .number a →
        assemble p (.exec c l) = some (word 0x1 a l))
      ∧ (∀ (c : AsmMode) (a : Byte), (c, a) ∈ [(.reqIdl, 0x26), (.reqAll, 0x52)] ∨ c = .number a →
          assemble p (.request c) = some (word 0x2 a 0))
      ∧ assemble p .anticoll = some (word 0x3 0 0)
      ∧ (∀ (r : AsmReg) (a : RegAddr) (m : Byte),
          (r, a) ∈ [(.name .command, 0x01), (.name .comIEn, 0x02), (.name .comIrq, 0x04), (.name .divIrq, 0x05),
            (.name .error, 0x06), (.name .fifoData, 0x09), (.name .fifoLevel, 0x0A), (.name .control, 0x0C),
            (.name .bitFraming, 0x0D)] ∨ r = .number a →
          assemble p (.setBits r m) = some (word 0x4 (a.setWidth 8) m)
            ∧ assemble p (.clearBits r m) = some (word 0x5 (a.setWidth 8) m))
      ∧ assemble p .reqIdl = some 0x00002602 ∧ assemble p .reqAll = some 0x00005202
      ∧ assemble p .idle = some 0x00000001 ∧ assemble p .softReset = some 0x00000F01
      ∧ (∀ l : Byte, assemble p (.transceive l) = some (0x00000C01 ||| l.setWidth 32 <<< 16)
          ∧ assemble p (.authent l) = some (0x00000E01 ||| l.setWidth 32 <<< 16))
      ∧ ∀ (k : Fin 16) (b : Byte), hostSequence p (.ldpay k b) = [.write (BitVec.ofNat 6 (0x20 + k.val)) b])
  ∧ ∀ (s : State) (rest : List Move), s.params.legal = true → s.moves = hostSequence s.params .waitDone ++ rest →
      s.host.busy = false → step s = .next { s with moves := rest, seen := (0x00, hostRead s.host 0x00) :: s.seen }

/-! ## Whole operations, from the GO to the commit -/

/-- A REQUEST that a card answers (R160 to R166; 95_test_vectors.md S5): issued by a GO and left to itself, against a PCD
that shows completion on read P = misses + 1 of the poll, no error, level 2 and valid-bit count 0, it makes the 16 + P
transactions of R148 in order and commits Success, CardPresent and the first response byte. (Left to itself is an empty
list of moves, log 5. The bits and the value that the trace shows written, & 0x7F, | 0x80 and 0x07, are PRESUMED, log 13.
Other lengths: `RequestCommit`. An error bit: `ChipErrorEndsExchange`.) -/
def Obligations.RequestReadsCardType : Prop :=
  ∀ (s : State) (v : Byte) (i : Instr) (mode a b f n e c d0 d1 : Byte) (misses rest : List Byte),
    s.params.legal = true → (i = .reqIdl ∧ mode = 0x26) ∨ (i = .reqAll ∧ mode = 0x52) →
    s.work.phase = .idle → s.host.busy = false → s.moves = [.write 0x10 v] → v.getLsbD 0 = true →
    decode s.params (opWord s.host) = .legal i →
    s.answers = a :: b :: f :: (misses ++ n :: e :: 0x02 :: c :: d0 :: d1 :: rest) →
    (∀ x ∈ misses, x &&& 0x31 = 0) → n &&& 0x31 ≠ 0 → misses.length + 1 < 2000 → e &&& 0x1B = 0 → c &&& 0x07 = 0 →
    ∃ t, run (misses.length + 19) s = .next t ∧ t.moves = [] ∧ t.answers = rest ∧ t.work.phase = .idle
      ∧ t.host = { s.host with
          busy := false, done := true, ill := false
          xout := if n &&& 0x01 = 0 then .ok else .noCardDetected
          pres := .success, seq := .cardPresent, cause := .none, rcount := 2, rbits := 16, cardtype := d0
          rdata := (setByte (setByte (.replicate 16 0) 0 d0) 1 d1) }
      ∧ busTrace t = busTrace s
          ++ [.wr s.params.busAddr 0x0D 0x07, .wr s.params.busAddr 0x02 0xF7, .rd s.params.busAddr 0x04 a,
              .wr s.params.busAddr 0x04 (a &&& 0x7F), .rd s.params.busAddr 0x0A b,
              .wr s.params.busAddr 0x0A (b ||| 0x80), .wr s.params.busAddr 0x01 0x00, .wr s.params.busAddr 0x09 mode,
              .wr s.params.busAddr 0x01 0x0C, .rd s.params.busAddr 0x0D f, .wr s.params.busAddr 0x0D (f ||| 0x80)]
          ++ (misses ++ [n]).map (fun x => .rd s.params.busAddr 0x04 x)
          ++ [.rd s.params.busAddr 0x06 e, .rd s.params.busAddr 0x0A 0x02, .rd s.params.busAddr 0x0C c,
              .rd s.params.busAddr 0x09 d0, .rd s.params.busAddr 0x09 d1]

/-- An ANTICOLL that reads five bytes (R175 to R183; 95_test_vectors.md S3 and S4): issued by a GO and left to itself, it
commits the UID if the fifth byte is the XOR of the first four, and ChecksumMismatch with a zero UID if not, whatever
the valid-bit count. (Left to itself is an empty list of moves, log 5. Other outcomes and counts: `AnticollCommit`. An
error bit: `ChipErrorEndsExchange`.) -/
def Obligations.AnticollReadsUid : Prop :=
  ∀ (s : State) (v a b f n e c u0 u1 u2 u3 bcc : Byte) (misses rest : List Byte),
    s.params.legal = true → s.work.phase = .idle → s.host.busy = false → s.moves = [.write 0x10 v] →
    v.getLsbD 0 = true → decode s.params (opWord s.host) = .legal .anticoll →
    s.answers = a :: b :: f :: (misses ++ n :: e :: 0x05 :: c :: u0 :: u1 :: u2 :: u3 :: bcc :: rest) →
    (∀ x ∈ misses, x &&& 0x31 = 0) → n &&& 0x30 ≠ 0 → n &&& 0x01 = 0 → misses.length + 1 < 2000 → e &&& 0x1B = 0 →
    ∃ t, run (misses.length + 23) s = .next t ∧ t.moves = [] ∧ t.answers = rest ∧ t.work.phase = .idle
      ∧ t.host.busy = false ∧ t.host.done = true ∧ t.host.ill = false ∧ t.host.fault = s.host.fault
      ∧ t.host.xout = .ok ∧ t.host.rcount = 5
      ∧ t.host.rbits.toNat = (if c &&& 0x07 = 0 then 40 else 32 + (c &&& 0x07).toNat)
      ∧ t.host.cardtype = s.host.cardtype ∧ t.host.opw = s.host.opw ∧ t.host.payload = s.host.payload
      ∧ (u0 ^^^ u1 ^^^ u2 ^^^ u3 = bcc →
          t.host.pres = .success ∧ t.host.seq = .uidKnown ∧ t.host.cause = .none ∧ t.host.uid = #v[u0, u1, u2, u3])
      ∧ (u0 ^^^ u1 ^^^ u2 ^^^ u3 ≠ bcc →
          t.host.pres = .checksumMismatch ∧ t.host.seq = .idle ∧ t.host.cause = .checksum
            ∧ t.host.uid = #v[0, 0, 0, 0])
      ∧ t.trace.length = s.trace.length + (misses.length + 21)

/-- An exchange that the PCD never completes (R129, R148, R149; 95_test_vectors.md S7 and S8): whatever the operation with
an exchange, issued by a GO and left to itself against 1999 polls with no completion, it ends after the transactions
R148 counts, as ProtocolError with CAUSE = TIMEOUT, no response bytes and length 0; REQUEST and ANTICOLL report
NoCardFound and NoUidFound, and EXEC leaves PRES, SEQ, CARDTYPE and UID alone. (Left to itself is an empty list of
moves, log 5, and every transaction completes, log 14.) -/
def Obligations.SilentPcdTimesOut : Prop :=
  ∀ (s : State) (v : Byte) (i : Instr) (cmd l : Byte) (arm misses : List Byte) (last : Byte) (rest : List Byte),
    s.params.legal = true → exchangeForm s.params i = some (cmd, l) → s.work.phase = .idle → s.host.busy = false →
    s.moves = [.write 0x10 v] → v.getLsbD 0 = true → decode s.params (opWord s.host) = .legal i →
    arm.length = (if cmd = 0x0C then 3 else 2) → s.answers = arm ++ misses ++ last :: rest →
    misses.length = 1999 → (∀ x ∈ misses, x.getLsbD 0 = false ∧ x &&& waitMask cmd = 0) →
    ∃ (n : Nat) (t : State), run n s = .next t ∧ t.moves = [] ∧ t.answers = rest ∧ t.work.phase = .idle
      ∧ t.host.busy = false ∧ t.host.done = true ∧ t.host.xout = .protocolError ∧ t.host.cause = .timeout
      ∧ t.host.rcount = 0 ∧ t.host.rbits = 0 ∧ t.host.rdata = .replicate 16 0
      ∧ (i = .reqIdl ∨ i = .reqAll →
          t.host.pres = .noCardFound ∧ t.host.seq = .idle ∧ t.host.cardtype = 0 ∧ t.host.uid = s.host.uid)
      ∧ (i = .anticoll →
          t.host.pres = .noUidFound ∧ t.host.seq = .idle ∧ t.host.uid = .replicate 4 0
            ∧ t.host.cardtype = s.host.cardtype)
      ∧ (execForm s.params i = some (cmd, l) →
          t.host.pres = s.host.pres ∧ t.host.seq = s.host.seq ∧ t.host.cardtype = s.host.cardtype
            ∧ t.host.uid = s.host.uid)
      ∧ t.trace.length = s.trace.length
          + ((if execForm s.params i = some (cmd, l) then 0 else 1) + (if cmd = 0x0C then 9 else 7) + l.toNat + 2000)

/-- EXEC.TRANSCEIVE that completes (R139, R141, R148): issued by a GO and left to itself, with L payload bytes, completion
on read P = misses + 1, no error, level `lvl` and ControlReg `c`, it reads the clamped number of response bytes,
makes 12 + L + P + C transactions, and commits Ok or NoCardDetected, the bytes, and the exact bit length. (Left to itself
is an empty list of moves, log 5. An error bit: `ChipErrorEndsExchange`.) -/
def Obligations.TransceiveReadsResponse : Prop :=
  ∀ (s : State) (v l a b f n e lvl c : Byte) (misses data rest : List Byte),
    s.params.legal = true → s.work.phase = .idle → s.host.busy = false → s.moves = [.write 0x10 v] →
    v.getLsbD 0 = true → decode s.params (opWord s.host) = .legal (.transceive l) →
    s.answers = a :: b :: f :: (misses ++ n :: e :: lvl :: c :: (data ++ rest)) →
    (∀ x ∈ misses, x &&& 0x31 = 0) → n &&& 0x31 ≠ 0 → misses.length + 1 < 2000 → e &&& 0x1B = 0 →
    data.length = (if lvl = 0 then 1 else if 16 < lvl.toNat then 16 else lvl.toNat) →
    ∃ t, run (misses.length + l.toNat + data.length + 15) s = .next t ∧ t.moves = [] ∧ t.answers = rest
      ∧ t.work.phase = .idle ∧ t.host.busy = false ∧ t.host.done = true ∧ t.host.ill = false
      ∧ t.host.xout = (if n &&& 0x01 = 0 then .ok else .noCardDetected)
      ∧ t.host.cause = (if n &&& 0x01 = 0 then .none else .noCard)
      ∧ t.host.rcount.toNat = data.length
      ∧ t.host.rbits.toInt
          = (if c.toNat % 8 = 0 then (lvl.toNat : Int) * 8 else ((lvl.toNat : Int) - 1) * 8 + (c.toNat % 8 : Nat))
      ∧ (∀ k, k < 16 → byteAt t.host.rdata k = data.getD k 0)
      ∧ t.host.pres = s.host.pres ∧ t.host.seq = s.host.seq ∧ t.host.cardtype = s.host.cardtype
      ∧ t.host.uid = s.host.uid ∧ t.host.opw = s.host.opw ∧ t.host.payload = s.host.payload
      ∧ t.trace.length = s.trace.length + (12 + l.toNat + (misses.length + 1) + data.length)

/-- Every EXEC but Transceive that completes (R139, R140, R142 to R146, R148): issued by a GO and left to itself, with L
payload bytes and completion on read P = misses + 1 of the poll, it makes the 8 + L + P transactions of R120, commits
Ok or CHIP_ERROR by ErrorReg alone, and reads no response back. (The spec's remarks that the least is 8 contradict that
count, which gives 9: log 27. Left to itself is an empty list of moves, log 5. The bits that the trace shows written,
& 0x7F and | 0x80, are PRESUMED, log 13.) -/
def Obligations.OtherCommandsReadNothingBack : Prop :=
  ∀ (s : State) (v : Byte) (i : Instr) (cmd l a b n e : Byte) (misses rest : List Byte),
    s.params.legal = true → execForm s.params i = some (cmd, l) → cmd ≠ 0x0C → s.work.phase = .idle →
    s.host.busy = false → s.moves = [.write 0x10 v] → v.getLsbD 0 = true →
    decode s.params (opWord s.host) = .legal i → s.answers = a :: b :: (misses ++ n :: e :: rest) →
    (∀ x ∈ misses, x.getLsbD 0 = false ∧ x &&& waitMask cmd = 0) →
    (n.getLsbD 0 = true ∨ n &&& waitMask cmd ≠ 0) → misses.length + 1 < 2000 →
    ∃ t, run (misses.length + l.toNat + 11) s = .next t ∧ t.moves = [] ∧ t.answers = rest ∧ t.work.phase = .idle
      ∧ t.host = { s.host with
          busy := false, done := true, ill := false
          xout := if e &&& 0x1B = 0 then .ok else .protocolError
          cause := if e &&& 0x1B = 0 then .none else .chipError
          rcount := 0, rbits := 0, rdata := .replicate 16 0 }
      ∧ busTrace t = busTrace s
          ++ [.wr s.params.busAddr 0x02 (if cmd = 0x0E then 0x92 else 0x80), .rd s.params.busAddr 0x04 a,
              .wr s.params.busAddr 0x04 (a &&& 0x7F), .rd s.params.busAddr 0x0A b,
              .wr s.params.busAddr 0x0A (b ||| 0x80), .wr s.params.busAddr 0x01 0x00]
          ++ (List.range l.toNat).map (fun k => .wr s.params.busAddr 0x09 (byteAt s.host.payload k))
          ++ .wr s.params.busAddr 0x01 cmd
          :: (misses ++ [n]).map (fun x => .rd s.params.busAddr 0x04 x)
          ++ [.rd s.params.busAddr 0x06 e]

/-- An exchange that completes with an error bit set (R131, R137, R148, R190): whatever the operation with an exchange, issued by
a GO and left to itself, with completion on read P = misses + 1 of the poll and a bit of 0x1B in ErrorReg, it ends after
that read (10 + L + P transactions for Transceive, 8 + L + P for another command, and the BitFramingReg write of REQUEST
and ANTICOLL) as ProtocolError with CAUSE = CHIP_ERROR, no response bytes and length 0; REQUEST and ANTICOLL report
NoCardFound and NoUidFound, and EXEC leaves PRES, SEQ, CARDTYPE and UID alone. (Left to itself is an empty list of moves,
log 5.) -/
def Obligations.ChipErrorEndsExchange : Prop :=
  ∀ (s : State) (v : Byte) (i : Instr) (cmd l : Byte) (arm misses : List Byte) (n e : Byte) (rest : List Byte),
    s.params.legal = true → exchangeForm s.params i = some (cmd, l) → s.work.phase = .idle → s.host.busy = false →
    s.moves = [.write 0x10 v] → v.getLsbD 0 = true → decode s.params (opWord s.host) = .legal i →
    arm.length = (if cmd = 0x0C then 3 else 2) → s.answers = arm ++ misses ++ n :: e :: rest →
    (∀ x ∈ misses, x.getLsbD 0 = false ∧ x &&& waitMask cmd = 0) →
    (n.getLsbD 0 = true ∨ n &&& waitMask cmd ≠ 0) → misses.length + 1 < 2000 → e &&& 0x1B ≠ 0 →
    ∃ (k : Nat) (t : State) (armed : List Txn), run k s = .next t ∧ t.moves = [] ∧ t.answers = rest
      ∧ t.work.phase = .idle ∧ t.host.busy = false ∧ t.host.done = true ∧ t.host.ill = false
      ∧ t.host.fault = s.host.fault ∧ t.host.opw = s.host.opw ∧ t.host.payload = s.host.payload
      ∧ t.host.xout = .protocolError ∧ t.host.cause = .chipError
      ∧ t.host.rcount = 0 ∧ t.host.rbits = 0 ∧ t.host.rdata = .replicate 16 0
      ∧ (i = .reqIdl ∨ i = .reqAll →
          t.host.pres = .noCardFound ∧ t.host.seq = .idle ∧ t.host.cardtype = 0 ∧ t.host.uid = s.host.uid)
      ∧ (i = .anticoll →
          t.host.pres = .noUidFound ∧ t.host.seq = .idle ∧ t.host.uid = .replicate 4 0
            ∧ t.host.cardtype = s.host.cardtype)
      ∧ (execForm s.params i = some (cmd, l) →
          t.host.pres = s.host.pres ∧ t.host.seq = s.host.seq ∧ t.host.cardtype = s.host.cardtype
            ∧ t.host.uid = s.host.uid)
      ∧ armed.length
          = (if execForm s.params i = some (cmd, l) then 0 else 1) + (if cmd = 0x0C then 9 else 7) + l.toNat
      ∧ t.trace = .rd s.params.busAddr 0x06 e
          :: ((misses ++ [n]).map fun x => .rd s.params.busAddr 0x04 x).reverse ++ armed ++ s.trace
end

