-- ==== Sys2Proof/Laws/Encoding.lean ====
section
/-! SUPPORT. The fields of an encoded word (spec/30_encoding.md R81), field by field. -/

namespace Sys2Proof

@[simp] theorem wordOp_encodeFields (op : BitVec 4) (a b : Byte) : wordOp (encodeFields op a b) = op := by
  unfold wordOp encodeFields
  ext i hi
  simp [show i < 32 by omega, show i < 8 by omega, show i < 16 by omega, hi]
@[simp] theorem wordZ1_encodeFields (op : BitVec 4) (a b : Byte) : wordZ1 (encodeFields op a b) = 0 := by
  unfold wordZ1 encodeFields
  ext i hi
  simp [show 4 + i < 8 by omega, show 4 + i < 16 by omega]
@[simp] theorem wordA_encodeFields (op : BitVec 4) (a b : Byte) : wordA (encodeFields op a b) = a := by
  unfold wordA encodeFields
  ext i hi
  simp [BitVec.getLsbD_of_ge op (8 + i) (by omega), show 8 + i < 32 by omega, show 8 + i < 16 by omega, hi]
@[simp] theorem wordB_encodeFields (op : BitVec 4) (a b : Byte) : wordB (encodeFields op a b) = b := by
  unfold wordB encodeFields
  ext i hi
  simp [BitVec.getLsbD_of_ge op (16 + i) (by omega), show 16 + i < 32 by omega, show 16 + i - 8 = 8 + i by omega, hi]
@[simp] theorem wordZ2_encodeFields (op : BitVec 4) (a b : Byte) : wordZ2 (encodeFields op a b) = 0 := by
  unfold wordZ2 encodeFields
  ext i hi
  simp [BitVec.getLsbD_of_ge op (24 + i) (by omega), BitVec.getLsbD_of_ge a (16 + i) (by omega),
      show 24 + i < 32 by omega, show 24 + i - 8 = 16 + i by omega, show 24 + i - 16 = 8 + i by omega]

/-- A word whose reserved fields are zero is its three other fields (R81). -/
theorem encodeFields_of_fields (w : Word) (h1 : wordZ1 w = 0) (h2 : wordZ2 w = 0) :
    encodeFields (wordOp w) (wordA w) (wordB w) = w := by
  have z1 : ∀ i, i < 4 → w.getLsbD (4 + i) = false := fun i hi => by
    have := congrArg (·.getLsbD i) h1; simpa [wordZ1, hi] using this
  have z2 : ∀ i, i < 8 → w.getLsbD (24 + i) = false := fun i hi => by
    have := congrArg (·.getLsbD i) h2; simpa [wordZ2, hi] using this
  unfold encodeFields wordOp wordA wordB
  ext i hi
  have e : w[i] = w.getLsbD i := by simp [hi]
  rw [e]
  rcases (by omega : i < 4 ∨ (4 ≤ i ∧ i < 8) ∨ (8 ≤ i ∧ i < 16) ∨ (16 ≤ i ∧ i < 24) ∨ 24 ≤ i) with h | h | h | h | h
  · simp [hi, h, show i < 8 by omega, show i < 16 by omega]
  · obtain ⟨j, rfl⟩ := Nat.exists_eq_add_of_le h.1
    simp [hi, show 4 + j < 8 by omega, show 4 + j < 16 by omega, ← BitVec.getLsbD_eq_getElem]
    exact z1 j (by omega)
  · simp [hi, show ¬ i < 4 by omega, show ¬ i < 8 by omega, show i < 16 by omega, show i - 8 < 8 by omega,
      show 8 + (i - 8) = i by omega]
  · simp [hi, show ¬ i < 4 by omega, show ¬ i < 8 by omega, show ¬ i < 16 by omega, show ¬ i - 8 < 8 by omega,
      show i - 16 < 8 by omega, show 16 + (i - 16) = i by omega]
  · obtain ⟨j, rfl⟩ := Nat.exists_eq_add_of_le h
    simp [hi, show ¬ 24 + j < 8 by omega, show ¬ 24 + j < 16 by omega, show ¬ 24 + j - 8 < 8 by omega,
        show ¬ 24 + j - 16 < 8 by omega, ← BitVec.getLsbD_eq_getElem, z2 j (by omega)]

/-- Laying a word out in bytes and reading it back gives the word (R30, R67). -/
theorem wordOfBytes_bytes (w : Word) :
    wordOfBytes (w.extractLsb' 0 8) (w.extractLsb' 8 8) (w.extractLsb' 16 8) (w.extractLsb' 24 8) = w := by
  unfold wordOfBytes
  ext i hi
  have e : w[i] = w.getLsbD i := by simp [hi]
  rw [e]
  rcases (by omega : i < 8 ∨ (8 ≤ i ∧ i < 16) ∨ (16 ≤ i ∧ i < 24) ∨ 24 ≤ i) with h | h | h | h
  · simp [hi, h, show i < 16 by omega, show i < 24 by omega]
  · simp [hi, show ¬ i < 8 by omega, show i < 16 by omega, show i < 24 by omega, show i - 8 < 8 by omega,
      show 8 + (i - 8) = i by omega]
  · simp [hi, show ¬ i < 8 by omega, show ¬ i < 16 by omega, show i < 24 by omega, show ¬ i - 8 < 8 by omega,
      show i - 16 < 8 by omega, show 16 + (i - 16) = i by omega]
  · simp [hi, show ¬ i < 8 by omega, show ¬ i < 16 by omega, show ¬ i < 24 by omega, show ¬ i - 8 < 8 by omega,
      show ¬ i - 16 < 8 by omega, show i - 24 < 8 by omega, show 24 + (i - 24) = i by omega]

/-- A register address put into the low six bits of A reads back, with A[7:6] = 0 (R88). -/
theorem maskOperand_fields (reg : RegAddr) :
    ((0 : BitVec 2) ++ reg).extractLsb' 6 2 = 0 ∧ ((0 : BitVec 2) ++ reg).extractLsb' 0 6 = reg := by
  revert reg; decide

end Sys2Proof
end

