-- ==== Sys2Proof/Laws/State.lean ====
section
/-! SUPPORT. One lemma per field of State per shared update, true by rfl, so that no later proof unfolds a record
update. -/

namespace Sys2Proof.Machine

/-! ## afterRead -/

@[simp] theorem afterRead_host (a : RegAddr) (s : State) : (afterRead a s).host = s.host := rfl
@[simp] theorem afterRead_work (a : RegAddr) (s : State) : (afterRead a s).work = s.work := rfl
@[simp] theorem afterRead_params (a : RegAddr) (s : State) : (afterRead a s).params = s.params := rfl
@[simp] theorem afterRead_answers (a : RegAddr) (s : State) : (afterRead a s).answers = s.answers.tail := rfl
@[simp] theorem afterRead_trace (a : RegAddr) (s : State) :
    (afterRead a s).trace = .rd s.params.busAddr a (pcdAnswer a s) :: s.trace := rfl
@[simp] theorem afterRead_moves (a : RegAddr) (s : State) : (afterRead a s).moves = s.moves := rfl
@[simp] theorem afterRead_seen (a : RegAddr) (s : State) : (afterRead a s).seen = s.seen := rfl

/-! ## memWrite -/

@[simp] theorem memWrite_host (a : RegAddr) (v : Byte) (s : State) : (memWrite a v s).host = s.host := rfl
@[simp] theorem memWrite_work (a : RegAddr) (v : Byte) (s : State) : (memWrite a v s).work = s.work := rfl
@[simp] theorem memWrite_params (a : RegAddr) (v : Byte) (s : State) : (memWrite a v s).params = s.params := rfl
@[simp] theorem memWrite_answers (a : RegAddr) (v : Byte) (s : State) : (memWrite a v s).answers = s.answers := rfl
@[simp] theorem memWrite_trace (a : RegAddr) (v : Byte) (s : State) :
    (memWrite a v s).trace = .wr s.params.busAddr a v :: s.trace := rfl
@[simp] theorem memWrite_moves (a : RegAddr) (v : Byte) (s : State) : (memWrite a v s).moves = s.moves := rfl
@[simp] theorem memWrite_seen (a : RegAddr) (v : Byte) (s : State) : (memWrite a v s).seen = s.seen := rfl

/-! ## setPhase -/

@[simp] theorem setPhase_host (ph : Phase) (s : State) : (setPhase ph s).host = s.host := rfl
@[simp] theorem setPhase_work (ph : Phase) (s : State) : (setPhase ph s).work = { s.work with phase := ph } := rfl
@[simp] theorem setPhase_params (ph : Phase) (s : State) : (setPhase ph s).params = s.params := rfl
@[simp] theorem setPhase_answers (ph : Phase) (s : State) : (setPhase ph s).answers = s.answers := rfl
@[simp] theorem setPhase_trace (ph : Phase) (s : State) : (setPhase ph s).trace = s.trace := rfl
@[simp] theorem setPhase_moves (ph : Phase) (s : State) : (setPhase ph s).moves = s.moves := rfl
@[simp] theorem setPhase_seen (ph : Phase) (s : State) : (setPhase ph s).seen = s.seen := rfl

/-! ## rmwRead -/

@[simp] theorem rmwRead_host (a : RegAddr) (s : State) : (rmwRead a s).host = s.host := rfl
@[simp] theorem rmwRead_work (a : RegAddr) (s : State) : (rmwRead a s).work = { s.work with t := pcdAnswer a s } := rfl
@[simp] theorem rmwRead_params (a : RegAddr) (s : State) : (rmwRead a s).params = s.params := rfl
@[simp] theorem rmwRead_answers (a : RegAddr) (s : State) : (rmwRead a s).answers = s.answers.tail := rfl
@[simp] theorem rmwRead_trace (a : RegAddr) (s : State) :
    (rmwRead a s).trace = .rd s.params.busAddr a (pcdAnswer a s) :: s.trace := rfl
@[simp] theorem rmwRead_moves (a : RegAddr) (s : State) : (rmwRead a s).moves = s.moves := rfl
@[simp] theorem rmwRead_seen (a : RegAddr) (s : State) : (rmwRead a s).seen = s.seen := rfl

/-! ## setBitsWrite -/

@[simp] theorem setBitsWrite_host (a : RegAddr) (m : Byte) (s : State) : (setBitsWrite a m s).host = s.host := rfl
@[simp] theorem setBitsWrite_work (a : RegAddr) (m : Byte) (s : State) : (setBitsWrite a m s).work = s.work := rfl
@[simp] theorem setBitsWrite_params (a : RegAddr) (m : Byte) (s : State) : (setBitsWrite a m s).params = s.params := rfl
@[simp] theorem setBitsWrite_answers (a : RegAddr) (m : Byte) (s : State) :
    (setBitsWrite a m s).answers = s.answers := rfl
@[simp] theorem setBitsWrite_trace (a : RegAddr) (m : Byte) (s : State) :
    (setBitsWrite a m s).trace = .wr s.params.busAddr a (s.work.t ||| m) :: s.trace := rfl
@[simp] theorem setBitsWrite_moves (a : RegAddr) (m : Byte) (s : State) : (setBitsWrite a m s).moves = s.moves := rfl
@[simp] theorem setBitsWrite_seen (a : RegAddr) (m : Byte) (s : State) : (setBitsWrite a m s).seen = s.seen := rfl

/-! ## clearBitsWrite -/

@[simp] theorem clearBitsWrite_host (a : RegAddr) (m : Byte) (s : State) : (clearBitsWrite a m s).host = s.host := rfl
@[simp] theorem clearBitsWrite_work (a : RegAddr) (m : Byte) (s : State) : (clearBitsWrite a m s).work = s.work := rfl
@[simp] theorem clearBitsWrite_params (a : RegAddr) (m : Byte) (s : State) :
    (clearBitsWrite a m s).params = s.params := rfl
@[simp] theorem clearBitsWrite_answers (a : RegAddr) (m : Byte) (s : State) :
    (clearBitsWrite a m s).answers = s.answers := rfl
@[simp] theorem clearBitsWrite_trace (a : RegAddr) (m : Byte) (s : State) :
    (clearBitsWrite a m s).trace = .wr s.params.busAddr a (s.work.t &&& ~~~m) :: s.trace := rfl
@[simp] theorem clearBitsWrite_moves (a : RegAddr) (m : Byte) (s : State) :
    (clearBitsWrite a m s).moves = s.moves := rfl
@[simp] theorem clearBitsWrite_seen (a : RegAddr) (m : Byte) (s : State) : (clearBitsWrite a m s).seen = s.seen := rfl

/-! ## accept -/

@[simp] theorem accept_host (ph : Phase) (s : State) :
    (accept ph s).host = { s.host with busy := true, done := false, ill := false } := rfl
@[simp] theorem accept_work (ph : Phase) (s : State) :
    (accept ph s).work = { s.work with opl := opWord s.host, phase := ph } := rfl
@[simp] theorem accept_params (ph : Phase) (s : State) : (accept ph s).params = s.params := rfl
@[simp] theorem accept_answers (ph : Phase) (s : State) : (accept ph s).answers = s.answers := rfl
@[simp] theorem accept_trace (ph : Phase) (s : State) : (accept ph s).trace = s.trace := rfl
@[simp] theorem accept_moves (ph : Phase) (s : State) : (accept ph s).moves = s.moves := rfl
@[simp] theorem accept_seen (ph : Phase) (s : State) : (accept ph s).seen = s.seen := rfl

/-! ## illegalOperation -/

@[simp] theorem illegalOperation_host (s : State) :
    (illegalOperation s).host = { s.host with ill := true, done := true, cause := .illegal } := rfl
@[simp] theorem illegalOperation_work (s : State) : (illegalOperation s).work = s.work := rfl
@[simp] theorem illegalOperation_params (s : State) : (illegalOperation s).params = s.params := rfl
@[simp] theorem illegalOperation_answers (s : State) : (illegalOperation s).answers = s.answers := rfl
@[simp] theorem illegalOperation_trace (s : State) : (illegalOperation s).trace = s.trace := rfl
@[simp] theorem illegalOperation_moves (s : State) : (illegalOperation s).moves = s.moves := rfl
@[simp] theorem illegalOperation_seen (s : State) : (illegalOperation s).seen = s.seen := rfl

/-! ## hostProtocolFault -/

@[simp] theorem hostProtocolFault_host (s : State) : (hostProtocolFault s).host = { s.host with fault := true } := rfl
@[simp] theorem hostProtocolFault_work (s : State) : (hostProtocolFault s).work = s.work := rfl
@[simp] theorem hostProtocolFault_params (s : State) : (hostProtocolFault s).params = s.params := rfl
@[simp] theorem hostProtocolFault_answers (s : State) : (hostProtocolFault s).answers = s.answers := rfl
@[simp] theorem hostProtocolFault_trace (s : State) : (hostProtocolFault s).trace = s.trace := rfl
@[simp] theorem hostProtocolFault_moves (s : State) : (hostProtocolFault s).moves = s.moves := rfl
@[simp] theorem hostProtocolFault_seen (s : State) : (hostProtocolFault s).seen = s.seen := rfl

/-! ## commit -/

@[simp] theorem commit_host (r : HostRegs) (s : State) :
    (commit r s).host = { r with busy := false, done := true } := rfl
@[simp] theorem commit_work (r : HostRegs) (s : State) : (commit r s).work = { s.work with phase := .idle } := rfl
@[simp] theorem commit_params (r : HostRegs) (s : State) : (commit r s).params = s.params := rfl
@[simp] theorem commit_answers (r : HostRegs) (s : State) : (commit r s).answers = s.answers := rfl
@[simp] theorem commit_trace (r : HostRegs) (s : State) : (commit r s).trace = s.trace := rfl
@[simp] theorem commit_moves (r : HostRegs) (s : State) : (commit r s).moves = s.moves := rfl
@[simp] theorem commit_seen (r : HostRegs) (s : State) : (commit r s).seen = s.seen := rfl

/-! ## applyReset -/

@[simp] theorem applyReset_host (s : State) : (applyReset s).host = HostRegs.reset := rfl
@[simp] theorem applyReset_work (s : State) : (applyReset s).work = WorkRegs.reset := rfl
@[simp] theorem applyReset_params (s : State) : (applyReset s).params = s.params := rfl
@[simp] theorem applyReset_answers (s : State) : (applyReset s).answers = s.answers := rfl
@[simp] theorem applyReset_trace (s : State) : (applyReset s).trace = s.trace := rfl
@[simp] theorem applyReset_moves (s : State) : (applyReset s).moves = s.moves := rfl
@[simp] theorem applyReset_seen (s : State) : (applyReset s).seen = s.seen := rfl

/-! ## beginExchange -/

@[simp] theorem beginExchange_host (cmd : Byte) (l : BitVec 5) (s : State) :
    (beginExchange cmd l s).host = s.host := rfl
@[simp] theorem beginExchange_work (cmd : Byte) (l : BitVec 5) (s : State) : (beginExchange cmd l s).work =
      { s.work with
        cmd := cmd, wlen := l, wxout := .protocolError, wcause := .none, wbits := 0, wcount := 0
        wdata := .replicate 16 0, irqen := irqEnableMask cmd, waitirq := waitMask cmd, phase := .xchg .enable } := rfl
@[simp] theorem beginExchange_params (cmd : Byte) (l : BitVec 5) (s : State) :
    (beginExchange cmd l s).params = s.params := rfl
@[simp] theorem beginExchange_answers (cmd : Byte) (l : BitVec 5) (s : State) :
    (beginExchange cmd l s).answers = s.answers := rfl
@[simp] theorem beginExchange_trace (cmd : Byte) (l : BitVec 5) (s : State) :
    (beginExchange cmd l s).trace = s.trace := rfl
@[simp] theorem beginExchange_moves (cmd : Byte) (l : BitVec 5) (s : State) :
    (beginExchange cmd l s).moves = s.moves := rfl
@[simp] theorem beginExchange_seen (cmd : Byte) (l : BitVec 5) (s : State) :
    (beginExchange cmd l s).seen = s.seen := rfl

/-! ## beginPoll -/

@[simp] theorem beginPoll_host (s : State) : (beginPoll s).host = s.host := rfl
@[simp] theorem beginPoll_work (s : State) :
    (beginPoll s).work = { s.work with i := BitVec.ofNat 11 Config.pollBudget, phase := .xchg .poll } := rfl
@[simp] theorem beginPoll_params (s : State) : (beginPoll s).params = s.params := rfl
@[simp] theorem beginPoll_answers (s : State) : (beginPoll s).answers = s.answers := rfl
@[simp] theorem beginPoll_trace (s : State) : (beginPoll s).trace = s.trace := rfl
@[simp] theorem beginPoll_moves (s : State) : (beginPoll s).moves = s.moves := rfl
@[simp] theorem beginPoll_seen (s : State) : (beginPoll s).seen = s.seen := rfl

/-! ## noteRead -/

@[simp] theorem noteRead_host (off : Offset) (s : State) : (noteRead off s).host = s.host := rfl
@[simp] theorem noteRead_work (off : Offset) (s : State) : (noteRead off s).work = s.work := rfl
@[simp] theorem noteRead_params (off : Offset) (s : State) : (noteRead off s).params = s.params := rfl
@[simp] theorem noteRead_answers (off : Offset) (s : State) : (noteRead off s).answers = s.answers := rfl
@[simp] theorem noteRead_trace (off : Offset) (s : State) : (noteRead off s).trace = s.trace := rfl
@[simp] theorem noteRead_moves (off : Offset) (s : State) : (noteRead off s).moves = s.moves := rfl
@[simp] theorem noteRead_seen (off : Offset) (s : State) :
    (noteRead off s).seen = (off, hostRead s.host off) :: s.seen := rfl

end Sys2Proof.Machine
end

