-- ==== Sys2Proof/Laws/Ops.lean ====
section
/-! SUPPORT. What the shared operations compute: byte files, the operation word in OPW, the response length, and the
bytes of the status registers. -/

namespace Sys2Proof.Machine

/-! ## Byte files -/

/-- Read after write in a byte file. -/
theorem byteAt_setByte {n : Nat} (v : Vector Byte n) (k j : Nat) (b : Byte) :
    byteAt (setByte v k b) j = if k = j ∧ j < n then b else byteAt v j := by
  unfold byteAt setByte
  rw [Vector.getElem?_setIfInBounds]
  by_cases h : k = j
  · subst h
    by_cases hn : k < n <;> simp [hn]
  · simp [h]

theorem byteAt_setByte_same {n : Nat} (v : Vector Byte n) (k : Nat) (b : Byte) (h : k < n) :
    byteAt (setByte v k b) k = b := by simp [byteAt_setByte, h]

theorem byteAt_setByte_other {n : Nat} (v : Vector Byte n) (k j : Nat) (b : Byte) (h : k ≠ j) :
    byteAt (setByte v k b) j = byteAt v j := by simp [byteAt_setByte, h]

@[simp] theorem byteAt_replicate (n k : Nat) : byteAt (Vector.replicate n 0#8) k = 0#8 := by
  unfold byteAt
  rw [Vector.getElem?_replicate]
  split <;> rfl

/-- Within its file, `byteAt` is the entry. -/
theorem byteAt_fin {n : Nat} (v : Vector Byte n) (k : Fin n) : byteAt v k.val = v[k] := by simp [byteAt]

/-- Two byte files with the same entries are the same file. -/
theorem byteFile_ext {n : Nat} (v w : Vector Byte n) (h : ∀ k, k < n → byteAt v k = byteAt w k) : v = w := by
  apply Vector.ext
  intro k hk
  simpa [byteAt, hk] using h k hk

/-- The payload loop of R95 copies the first `l` entries and keeps the others. -/
theorem byteAt_latchPayload (payload wpay : Vector Byte 16) (l k : Nat) :
    byteAt (latchPayload payload wpay l) k = if k < l ∧ k < 16 then byteAt payload k else byteAt wpay k := by
  induction l with
  | zero => simp [latchPayload]
  | succ l ih =>
    unfold latchPayload
    rw [byteAt_setByte, ih]
    by_cases h : l = k
    · subst h; simp
    · simp only [h, false_and, if_false, show (k < l + 1) ↔ k < l by omega]

/-- The word in OPW after OPW was given the bytes of `w` (R30). -/
@[simp] theorem opWord_opwOfWord (h : HostRegs) (w : Word) : opWord { h with opw := opwOfWord w } = w :=
  wordOfBytes_bytes w

/-! ## The response length (spec/41_executor.md R134, R135) -/

/-- backLen is at least -7 and at most 2040, so 16 bits hold it (R134). -/
theorem backLen_range (lvl : Byte) (lb : BitVec 3) : -7 ≤ backLen lvl lb ∧ backLen lvl lb ≤ 2040 := by
  have h1 := lvl.isLt
  have h2 := lb.isLt
  unfold backLen
  by_cases h : lb = 0
  · simp only [h, if_true]; omega
  · have : 0 < lb.toNat := by
      rcases Nat.eq_zero_or_pos lb.toNat with h0 | h0
      · exact absurd (BitVec.eq_of_toNat_eq (by simpa using h0)) h
      · exact h0
    simp only [h, if_false]; omega

/-- WBITS holds backLen exactly: no value wraps (R134). -/
theorem backLen_exact (lvl : Byte) (lb : BitVec 3) : (BitVec.ofInt 16 (backLen lvl lb)).toInt = backLen lvl lb := by
  have := backLen_range lvl lb
  rw [BitVec.toInt_ofInt]
  exact Int.bmod_eq_of_le (by norm_num; omega) (by norm_num; omega)

/-- The clamp of R135. -/
theorem clampCount_toNat (lvl : Byte) : (clampCount lvl).toNat = max 1 (min 16 lvl.toNat) := by
  revert lvl; decide +kernel

/-! ## PCD answers -/

/-- An answer laid out in advance is the one the next read returns. -/
theorem pcdAnswer_cons (a : RegAddr) (s : State) (v : Byte) (rest : List Byte) (h : s.answers = v :: rest) :
    pcdAnswer a s = v := by simp [pcdAnswer, h]

end Sys2Proof.Machine
end

