-- ==== Sys2Proof/Laws/Exchange.lean ====
section
/-! SUPPORT. What one step of the exchange leaves unchanged, whatever the position, and the one transaction it makes. -/

namespace Sys2Proof.Machine

/-- The registers of an exchange that only its start writes: OPL, CMD, WLEN, WPAY, IRQEN, WAITIRQ. -/
structure SameSetup (w v : WorkRegs) : Prop where
  opl     : v.opl = w.opl
  cmd     : v.cmd = w.cmd
  wlen    : v.wlen = w.wlen
  wpay    : v.wpay = w.wpay
  irqen   : v.irqen = w.irqen
  waitirq : v.waitirq = w.waitirq

/-- One step of the exchange makes exactly one transaction, on the instance's own bus address, and leaves the host
registers, the parameters, the moves, the host's notes and the exchange's setup as they were. -/
structure ExchangeFrame (s t : State) : Prop where
  host   : t.host = s.host
  params : t.params = s.params
  moves  : t.moves = s.moves
  seen   : t.seen = s.seen
  setup  : SameSetup s.work t.work
  trace  : ∃ x, t.trace = x :: s.trace ∧ txnDev x = s.params.busAddr

/-- The frame of every position of the exchange. -/
theorem exchangeStep_frame (after : Phase) (p : XPos) (s : State) : ExchangeFrame s (exchangeStep after p s) := by
  cases p <;> unfold exchangeStep
  case start => unfold xStart; dsimp only; split <;>
    exact ⟨rfl, rfl, rfl, rfl, ⟨rfl, rfl, rfl, rfl, rfl, rfl⟩, _, rfl, rfl⟩
  case poll => unfold xPoll; dsimp only; split <;>
    exact ⟨rfl, rfl, rfl, rfl, ⟨rfl, rfl, rfl, rfl, rfl, rfl⟩, _, rfl, rfl⟩
  all_goals exact ⟨rfl, rfl, rfl, rfl, ⟨rfl, rfl, rfl, rfl, rfl, rfl⟩, _, rfl, rfl⟩

/-! ## The positions with a choice, case by case -/

theorem xLoadIdle_empty (s : State) (h : s.work.wlen = 0) :
    xLoadIdle s = { memWrite (regAddr .command) cmdIdle s with
      work := { s.work with k := 0, phase := .xchg .start } } := by
  unfold xLoadIdle
  rw [if_pos h]

theorem xLoadIdle_push (s : State) (h : s.work.wlen ≠ 0) :
    xLoadIdle s = { memWrite (regAddr .command) cmdIdle s with
      work := { s.work with k := 0, phase := .xchg .push } } := by
  unfold xLoadIdle
  rw [if_neg h]

theorem xPush_more (s : State) (h : s.work.k.toNat + 1 < s.work.wlen.toNat) :
    xPush s = { memWrite (regAddr .fifoData) (byteAt s.work.wpay s.work.k.toNat) s with
      work := { s.work with k := s.work.k + 1, phase := .xchg .push } } := by
  unfold xPush
  rw [if_pos h]

theorem xPush_last (s : State) (h : ¬ s.work.k.toNat + 1 < s.work.wlen.toNat) :
    xPush s = { memWrite (regAddr .fifoData) (byteAt s.work.wpay s.work.k.toNat) s with
      work := { s.work with k := s.work.k + 1, phase := .xchg .start } } := by
  unfold xPush
  rw [if_neg h]

theorem xStart_transceive (s : State) (h : s.work.cmd = cmdTransceive) :
    xStart s = setPhase (.xchg .sendRead) (memWrite (regAddr .command) s.work.cmd s) := by
  unfold xStart
  exact if_pos h

theorem xStart_other (s : State) (h : s.work.cmd ≠ cmdTransceive) :
    xStart s = beginPoll (memWrite (regAddr .command) s.work.cmd s) := by
  unfold xStart
  exact if_neg h

/-- The last read of the budget ends the poll as a timeout, whatever it returned (R128, R129). -/
theorem xPoll_timeout (after : Phase) (s : State) (h : s.work.i - 1 = 0) :
    xPoll after s = { afterRead (regAddr .comIrq) s with
      work := { s.work with
        nirq := pcdAnswer (regAddr .comIrq) s, i := s.work.i - 1, wxout := .protocolError, wcause := .timeout
        phase := after } } := by
  unfold xPoll
  exact if_pos h

/-- A read that shows completion with iterations remaining ends the poll (R127, R128). -/
theorem xPoll_done (after : Phase) (s : State) (h : s.work.i - 1 ≠ 0)
    (hd : pollDone (pcdAnswer (regAddr .comIrq) s) s.work.waitirq = true) :
    xPoll after s = { afterRead (regAddr .comIrq) s with
      work := { s.work with
        nirq := pcdAnswer (regAddr .comIrq) s, i := s.work.i - 1, phase := .xchg .error } } := by
  unfold xPoll
  dsimp only
  rw [if_neg h, if_pos hd]

/-- Any other read leaves the poll running, one iteration less (R127). -/
theorem xPoll_again (after : Phase) (s : State) (h : s.work.i - 1 ≠ 0)
    (hd : pollDone (pcdAnswer (regAddr .comIrq) s) s.work.waitirq = false) :
    xPoll after s = { afterRead (regAddr .comIrq) s with
      work := { s.work with
        nirq := pcdAnswer (regAddr .comIrq) s, i := s.work.i - 1, phase := .xchg .poll } } := by
  unfold xPoll
  dsimp only
  rw [if_neg h, if_neg (by simp [hd])]

/-- The error check when the read-back follows (R130, R132, R133). -/
theorem xError_readBack (after : Phase) (s : State) (r : XOut × Cause)
    (hr : classify (pcdAnswer (regAddr .error) s) s.work.nirq s.work.irqen = r)
    (h : r.1 ≠ .protocolError ∧ s.work.cmd = cmdTransceive) :
    xError after s = { afterRead (regAddr .error) s with
      work := { s.work with
        errv := pcdAnswer (regAddr .error) s, wxout := r.1, wcause := r.2, phase := .xchg .level } } := by
  unfold xError
  dsimp only
  rw [hr, if_pos h]

/-- The error check when the exchange ends with it (R131, R137). -/
theorem xError_end (after : Phase) (s : State) (r : XOut × Cause)
    (hr : classify (pcdAnswer (regAddr .error) s) s.work.nirq s.work.irqen = r)
    (h : ¬ (r.1 ≠ .protocolError ∧ s.work.cmd = cmdTransceive)) :
    xError after s = { afterRead (regAddr .error) s with
      work := { s.work with
        errv := pcdAnswer (regAddr .error) s, wxout := r.1, wcause := r.2, phase := after } } := by
  unfold xError
  dsimp only
  rw [hr, if_neg h]

theorem xFetch_more (after : Phase) (s : State) (h : s.work.k.toNat + 1 < s.work.wcount.toNat) :
    xFetch after s = { afterRead (regAddr .fifoData) s with
      work := { s.work with
        wdata := setByte s.work.wdata s.work.k.toNat (pcdAnswer (regAddr .fifoData) s), k := s.work.k + 1
        phase := .xchg .fetch } } := by
  unfold xFetch
  rw [if_pos h]

theorem xFetch_last (after : Phase) (s : State) (h : ¬ s.work.k.toNat + 1 < s.work.wcount.toNat) :
    xFetch after s = { afterRead (regAddr .fifoData) s with
      work := { s.work with
        wdata := setByte s.work.wdata s.work.k.toNat (pcdAnswer (regAddr .fifoData) s), k := s.work.k + 1
        phase := after } } := by
  unfold xFetch
  rw [if_neg h]

/-- The exchange never returns to IDLE by itself: it goes on, or enters the phase its caller named. -/
theorem exchangeStep_phase (after : Phase) (p : XPos) (s : State) :
    (∃ q, (exchangeStep after p s).work.phase = .xchg q) ∨ (exchangeStep after p s).work.phase = after := by
  cases p with
  | loadIdle =>
    by_cases h : s.work.wlen = 0
    · exact .inl ⟨.start, congrArg (·.work.phase) (xLoadIdle_empty s h)⟩
    · exact .inl ⟨.push, congrArg (·.work.phase) (xLoadIdle_push s h)⟩
  | push =>
    by_cases h : s.work.k.toNat + 1 < s.work.wlen.toNat
    · exact .inl ⟨.push, congrArg (·.work.phase) (xPush_more s h)⟩
    · exact .inl ⟨.start, congrArg (·.work.phase) (xPush_last s h)⟩
  | start =>
    by_cases h : s.work.cmd = cmdTransceive
    · exact .inl ⟨.sendRead, congrArg (·.work.phase) (xStart_transceive s h)⟩
    · exact .inl ⟨.poll, congrArg (·.work.phase) (xStart_other s h)⟩
  | poll =>
    by_cases h : s.work.i - 1 = 0
    · exact .inr (congrArg (·.work.phase) (xPoll_timeout after s h))
    · cases hd : pollDone (pcdAnswer (regAddr .comIrq) s) s.work.waitirq with
      | true => exact .inl ⟨.error, congrArg (·.work.phase) (xPoll_done after s h hd)⟩
      | false => exact .inl ⟨.poll, congrArg (·.work.phase) (xPoll_again after s h hd)⟩
  | error =>
    by_cases h : (classify (pcdAnswer (regAddr .error) s) s.work.nirq s.work.irqen).1 ≠ .protocolError
        ∧ s.work.cmd = cmdTransceive
    · exact .inl ⟨.level, congrArg (·.work.phase) (xError_readBack after s _ rfl h)⟩
    · exact .inr (congrArg (·.work.phase) (xError_end after s _ rfl h))
  | fetch =>
    by_cases h : s.work.k.toNat + 1 < s.work.wcount.toNat
    · exact .inl ⟨.fetch, congrArg (·.work.phase) (xFetch_more after s h)⟩
    · exact .inr (congrArg (·.work.phase) (xFetch_last after s h))
  | enable | irqRead | irqWrite | flushRead | flushWrite | sendRead | sendWrite | level | control =>
    exact .inl ⟨_, rfl⟩

end Sys2Proof.Machine
end

