-- ==== Sys2Proof/Laws/HostPort.lean ====
section
/-! SUPPORT. The host port, offset by offset (spec/10_state.md R22), and everything a host write can do. -/

namespace Sys2Proof.Machine

/-! ## Reads -/

@[simp] theorem hostRead_status (h : HostRegs) : hostRead h 0x00 = statusByte h := rfl
@[simp] theorem hostRead_result (h : HostRegs) : hostRead h 0x01 = resultByte h := rfl
@[simp] theorem hostRead_cause (h : HostRegs) : hostRead h 0x02 = causeByte h := rfl
@[simp] theorem hostRead_rcount (h : HostRegs) : hostRead h 0x03 = h.rcount := rfl
@[simp] theorem hostRead_rbitsLo (h : HostRegs) : hostRead h 0x04 = rbitsLo h := rfl
@[simp] theorem hostRead_rbitsHi (h : HostRegs) : hostRead h 0x05 = rbitsHi h := rfl
@[simp] theorem hostRead_cardtype (h : HostRegs) : hostRead h 0x06 = h.cardtype := rfl
@[simp] theorem hostRead_ctrl (h : HostRegs) : hostRead h 0x10 = 0x00 := rfl

/-- UIDk is at 0x07 + k. -/
theorem hostRead_uid (h : HostRegs) (off : Offset) (h1 : 0x07 ≤ off.toNat) (h2 : off.toNat ≤ 0x0A) :
    hostRead h off = byteAt h.uid (off.toNat - 0x07) := by
  unfold hostRead
  simp only [show ¬ off.toNat = 0 by omega, show ¬ off.toNat = 1 by omega, show ¬ off.toNat = 2 by omega,
    show ¬ off.toNat = 3 by omega, show ¬ off.toNat = 4 by omega, show ¬ off.toNat = 5 by omega,
    show ¬ off.toNat = 6 by omega, h1, h2, and_self, if_true, if_false]

/-- OPWk is at 0x0C + k. -/
theorem hostRead_opw (h : HostRegs) (off : Offset) (h1 : 0x0C ≤ off.toNat) (h2 : off.toNat ≤ 0x0F) :
    hostRead h off = byteAt h.opw (off.toNat - 0x0C) := by
  unfold hostRead
  simp only [show ¬ off.toNat = 0 by omega, show ¬ off.toNat = 1 by omega, show ¬ off.toNat = 2 by omega,
    show ¬ off.toNat = 3 by omega, show ¬ off.toNat = 4 by omega, show ¬ off.toNat = 5 by omega,
    show ¬ off.toNat = 6 by omega, show ¬ (7 ≤ off.toNat ∧ off.toNat ≤ 10) by omega, h1, h2, and_self, if_true,
    if_false]

/-- PAYLOADk is at 0x20 + k. -/
theorem hostRead_payload (h : HostRegs) (off : Offset) (h1 : 0x20 ≤ off.toNat) (h2 : off.toNat ≤ 0x2F) :
    hostRead h off = byteAt h.payload (off.toNat - 0x20) := by
  unfold hostRead
  simp only [show ¬ off.toNat = 0 by omega, show ¬ off.toNat = 1 by omega, show ¬ off.toNat = 2 by omega,
    show ¬ off.toNat = 3 by omega, show ¬ off.toNat = 4 by omega, show ¬ off.toNat = 5 by omega,
    show ¬ off.toNat = 6 by omega, show ¬ (7 ≤ off.toNat ∧ off.toNat ≤ 10) by omega,
    show ¬ (12 ≤ off.toNat ∧ off.toNat ≤ 15) by omega, h1, h2, and_self, if_true, if_false]

/-- RDATAk is at 0x30 + k. -/
theorem hostRead_rdata (h : HostRegs) (off : Offset) (h1 : 0x30 ≤ off.toNat) :
    hostRead h off = byteAt h.rdata (off.toNat - 0x30) := by
  unfold hostRead
  simp only [show ¬ off.toNat = 0 by omega, show ¬ off.toNat = 1 by omega, show ¬ off.toNat = 2 by omega,
    show ¬ off.toNat = 3 by omega, show ¬ off.toNat = 4 by omega, show ¬ off.toNat = 5 by omega,
    show ¬ off.toNat = 6 by omega, show ¬ (7 ≤ off.toNat ∧ off.toNat ≤ 10) by omega,
    show ¬ (12 ≤ off.toNat ∧ off.toNat ≤ 15) by omega, show ¬ (32 ≤ off.toNat ∧ off.toNat ≤ 47) by omega, h1,
    if_true, if_false]

/-! ## Stores -/

/-- A store to OPWk (R36). -/
theorem storeHost_opw (h : HostRegs) (off : Offset) (v : Byte) (h1 : 0x0C ≤ off.toNat) (h2 : off.toNat ≤ 0x0F) :
    storeHost off v h = { h with opw := setByte h.opw (off.toNat - 0x0C) v } := by
  unfold storeHost
  simp only [h1, h2, and_self, if_true]

/-- A store to PAYLOADk (R36). -/
theorem storeHost_payload (h : HostRegs) (off : Offset) (v : Byte) (h1 : 0x20 ≤ off.toNat) (h2 : off.toNat ≤ 0x2F) :
    storeHost off v h = { h with payload := setByte h.payload (off.toNat - 0x20) v } := by
  unfold storeHost
  simp only [show ¬ (12 ≤ off.toNat ∧ off.toNat ≤ 15) by omega, h1, h2, and_self, if_true, if_false]

/-! ## Writes -/

theorem hostWrite_unwritable (off : Offset) (v : Byte) (s : State) (h : hostWritable off = false) :
    hostWrite off v s = .next s := by
  unfold hostWrite
  exact if_pos h

theorem hostWrite_busy (off : Offset) (v : Byte) (s : State) (h : hostWritable off = true)
    (hb : s.host.busy = true) : hostWrite off v s = .next (hostProtocolFault s) := by
  unfold hostWrite
  rw [if_neg (by simp [h]), if_pos hb]

theorem hostWrite_go (v : Byte) (s : State) (hb : s.host.busy = false) (hv : v.getLsbD 0 = true) :
    hostWrite 0x10 v s = go s := by
  unfold hostWrite
  rw [if_neg (by decide), if_neg (by simp [hb]), if_pos (show (0x10 : Offset) = offCtrl from rfl),
    if_pos hv]

theorem hostWrite_store (off : Offset) (v : Byte) (s : State) (h : hostWritable off = true)
    (hb : s.host.busy = false) (hc : off ≠ 0x10) :
    hostWrite off v s = .next { s with host := storeHost off v s.host } := by
  unfold hostWrite
  rw [if_neg (by simp [h]), if_neg (by simp [hb]), if_neg (show ¬ off = offCtrl from hc)]

end Sys2Proof.Machine
end

