-- ==== Sys2Proof/Laws/Invariant.lean ====
section
/-! SUPPORT. The registers of an exchange in flight (Safety, `ExchangeInv` and `positionOk`) through its steps. -/

namespace Sys2Proof.Machine

/-- The poll counter while iterations remain (R127). -/
theorem toNat_pred {i : BitVec 11} (h : 0 < i.toNat) (h0 : i - 1 ≠ 0) :
    (i - 1).toNat = i.toNat - 1 ∧ 0 < (i - 1).toNat := by
  have : i.toNat < 2048 := i.isLt
  have e : (i - 1).toNat = i.toNat - 1 := by
    rw [BitVec.toNat_sub]; simp; omega
  refine ⟨e, ?_⟩
  rcases Nat.eq_zero_or_pos (i - 1).toNat with hz | hz
  · exact absurd (BitVec.eq_of_toNat_eq (by simpa using hz)) h0
  · exact hz

/-- The FIFO index does not wrap below 31. -/
theorem toNat_succ5 {k : BitVec 5} (h : k.toNat + 1 < 32) : (k + 1).toNat = k.toNat + 1 := by
  rw [BitVec.toNat_add]; simp; omega

/-- The budget with which a poll begins (R8, R127). -/
theorem pollBudget_ok : decide (0 < (BitVec.ofNat 11 Config.pollBudget).toNat
    ∧ (BitVec.ofNat 11 Config.pollBudget).toNat ≤ Config.pollBudget) = true := by decide

/-- Every position of the exchange keeps what an exchange in flight satisfies, and the next position has its own
registers as R120 to R136 leave them. -/
theorem exchangeStep_inv {after : Phase} (ha : ∀ q, after ≠ .xchg q) {p : XPos} {s : State}
    (hp : s.work.phase = .xchg p) (he : ExchangeInv s.work) (hpos : positionOk s.work p = true) :
    ExchangeInv (exchangeStep after p s).work
      ∧ ∀ q, (exchangeStep after p s).work.phase = .xchg q → positionOk (exchangeStep after p s).work q = true := by
  obtain ⟨h1, h2, h3, h4, h5, h6⟩ := he
  have fil : ∀ ph (w : WorkRegs), (∀ q, ph ≠ .xchg q) → w.phase = ph → filled w = w.wcount.toNat := by
    intro ph w h e; unfold filled; rw [e]; cases ph <;> simp_all
  have z : p ≠ .fetch → ∀ k : Fin 16, byteAt s.work.wdata k.val = 0 := by
    intro hf k; apply h6; unfold filled; rw [hp]; cases p <;> simp_all
  cases p with
  | enable | irqRead | irqWrite | flushRead | flushWrite =>
    exact ⟨⟨h1, h2, h3, h4, h5, fun k _ => z (by simp) k⟩, by intro q hq; cases hq; rfl⟩
  | sendRead =>
    exact ⟨⟨h1, h2, h3, h4, h5, fun k _ => z (by simp) k⟩, by intro q hq; cases hq; exact hpos⟩
  | sendWrite =>
    refine ⟨⟨h1, h2, h3, h4, h5, fun k _ => z (by simp) k⟩, by intro q hq; cases hq; exact pollBudget_ok⟩
  | level => exact ⟨⟨h1, h2, h3, h4, h5, fun k _ => z (by simp) k⟩, by intro q hq; cases hq; exact hpos⟩
  | control =>
    refine ⟨⟨h1, h2, h3, ?_, ?_, fun k _ => z (by simp) k⟩, ?_⟩
    · show (clampCount _).toNat ≤ 16; rw [clampCount_toNat]; omega
    · show _ ≤ (BitVec.ofInt 16 _).toInt ∧ (BitVec.ofInt 16 _).toInt ≤ _; rw [backLen_exact]; exact backLen_range _ _
    · intro q hq; cases hq
      simp only [positionOk, decide_eq_true_eq] at hpos
      simp only [positionOk, exchangeStep, xControl, clampCount_toNat, decide_eq_true_eq]
      refine ⟨hpos, ?_⟩
      show 0 < _
      omega
  | loadIdle =>
    by_cases h : s.work.wlen = 0
    · rw [exchangeStep, xLoadIdle_empty s h]
      exact ⟨⟨h1, h2, h3, h4, h5, fun k _ => z (by simp) k⟩, by intro q hq; cases hq; rfl⟩
    · rw [exchangeStep, xLoadIdle_push s h]
      refine ⟨⟨h1, h2, h3, h4, h5, fun k _ => z (by simp) k⟩, ?_⟩
      intro q hq; cases hq
      simp only [positionOk, decide_eq_true_eq]
      rcases Nat.eq_zero_or_pos s.work.wlen.toNat with hz | hz
      · exact absurd (BitVec.eq_of_toNat_eq (by simpa using hz)) h
      · simpa using hz
  | push =>
    by_cases h : s.work.k.toNat + 1 < s.work.wlen.toNat
    · rw [exchangeStep, xPush_more s h]
      refine ⟨⟨h1, h2, h3, h4, h5, fun k _ => z (by simp) k⟩, ?_⟩
      intro q hq; cases hq
      simp only [positionOk, decide_eq_true_eq]
      rw [toNat_succ5 (by omega)]; exact h
    · rw [exchangeStep, xPush_last s h]
      exact ⟨⟨h1, h2, h3, h4, h5, fun k _ => z (by simp) k⟩, by intro q hq; cases hq; rfl⟩
  | start =>
    by_cases h : s.work.cmd = cmdTransceive
    · rw [exchangeStep, xStart_transceive s h]
      exact ⟨⟨h1, h2, h3, h4, h5, fun k _ => z (by simp) k⟩, by intro q hq; cases hq; exact decide_eq_true h⟩
    · rw [exchangeStep, xStart_other s h]
      refine ⟨⟨h1, h2, h3, h4, h5, fun k _ => z (by simp) k⟩, by intro q hq; cases hq; exact pollBudget_ok⟩
  | poll =>
    simp only [positionOk, decide_eq_true_eq] at hpos
    by_cases h : s.work.i - 1 = 0
    · rw [exchangeStep, xPoll_timeout after s h]
      exact ⟨⟨h1, h2, h3, h4, h5, fun k _ => z (by simp) k⟩, fun q hq => absurd hq (ha q)⟩
    · have hi := toNat_pred hpos.1 h
      cases hd : pollDone (pcdAnswer (regAddr .comIrq) s) s.work.waitirq with
      | true =>
        rw [exchangeStep, xPoll_done after s h hd]
        exact ⟨⟨h1, h2, h3, h4, h5, fun k _ => z (by simp) k⟩, by intro q hq; cases hq; rfl⟩
      | false =>
        rw [exchangeStep, xPoll_again after s h hd]
        refine ⟨⟨h1, h2, h3, h4, h5, fun k _ => z (by simp) k⟩, ?_⟩
        intro q hq; cases hq
        simp only [positionOk, decide_eq_true_eq]; omega
  | error =>
    by_cases h : (classify (pcdAnswer (regAddr .error) s) s.work.nirq s.work.irqen).1 ≠ .protocolError
        ∧ s.work.cmd = cmdTransceive
    · rw [exchangeStep, xError_readBack after s _ rfl h]
      exact ⟨⟨h1, h2, h3, h4, h5, fun k _ => z (by simp) k⟩, by intro q hq; cases hq; simpa [positionOk] using h.2⟩
    · rw [exchangeStep, xError_end after s _ rfl h]
      exact ⟨⟨h1, h2, h3, h4, h5, fun k _ => z (by simp) k⟩, fun q hq => absurd hq (ha q)⟩
  | fetch =>
    simp only [positionOk, decide_eq_true_eq] at hpos
    have hk : (s.work.k + 1).toNat = s.work.k.toNat + 1 := toNat_succ5 (by omega)
    have h6' : ∀ k : Fin 16, s.work.k.toNat ≤ k.val → byteAt s.work.wdata k.val = 0 := by
      intro k hk; apply h6; unfold filled; rw [hp]; exact hk
    by_cases h : s.work.k.toNat + 1 < s.work.wcount.toNat
    · rw [exchangeStep, xFetch_more after s h]
      refine ⟨⟨h1, h2, h3, h4, h5, fun k hle => ?_⟩, ?_⟩
      · simp only [filled, hk] at hle
        dsimp only; rw [byteAt_setByte_other _ _ _ _ (by omega)]; exact h6' k (by omega)
      · intro q hq; cases hq
        simp only [positionOk, decide_eq_true_eq, hk]; exact ⟨hpos.1, h⟩
    · rw [exchangeStep, xFetch_last after s h]
      refine ⟨⟨h1, h2, h3, h4, h5, fun k hle => ?_⟩, fun q hq => absurd hq (ha q)⟩
      rw [fil after _ ha rfl] at hle
      dsimp only at hle ⊢
      rw [byteAt_setByte_other _ _ _ _ (by omega)]; exact h6' k (by omega)

end Sys2Proof.Machine
end

