-- ==== Sys2Proof/Laws/PerInstr.lean ====
section
/-! SUPPORT. What is said of every operation as syntax, one lemma per constructor of Instr. -/

/-- The reserved fields Z1 and Z2 of an operation's word are zero, whatever the parameters (spec/30_encoding.md R81). -/
def Sys2Proof.Laws.ReservedBitsZero.Statement (i : Sys2Proof.Instr) : Prop :=
  ∀ p : Sys2Proof.Params,
    Sys2Proof.wordZ1 (Sys2Proof.encode p i) = 0 ∧ Sys2Proof.wordZ2 (Sys2Proof.encode p i) = 0

namespace Sys2Proof.Laws.ReservedBitsZero

theorem idle (l : Byte) : Statement (.idle l) :=
  fun _ => ⟨wordZ1_encodeFields _ _ _, wordZ2_encodeFields _ _ _⟩
theorem transceive (l : Byte) : Statement (.transceive l) :=
  fun _ => ⟨wordZ1_encodeFields _ _ _, wordZ2_encodeFields _ _ _⟩
theorem authent (l : Byte) : Statement (.authent l) :=
  fun _ => ⟨wordZ1_encodeFields _ _ _, wordZ2_encodeFields _ _ _⟩
theorem softReset (l : Byte) : Statement (.softReset l) :=
  fun _ => ⟨wordZ1_encodeFields _ _ _, wordZ2_encodeFields _ _ _⟩
theorem receive (l : Byte) : Statement (.receive l) :=
  fun _ => ⟨wordZ1_encodeFields _ _ _, wordZ2_encodeFields _ _ _⟩
theorem transmit (l : Byte) : Statement (.transmit l) :=
  fun _ => ⟨wordZ1_encodeFields _ _ _, wordZ2_encodeFields _ _ _⟩
theorem calcCrc (l : Byte) : Statement (.calcCrc l) :=
  fun _ => ⟨wordZ1_encodeFields _ _ _, wordZ2_encodeFields _ _ _⟩
theorem reqIdl : Statement .reqIdl := fun _ => ⟨wordZ1_encodeFields _ _ _, wordZ2_encodeFields _ _ _⟩
theorem reqAll : Statement .reqAll := fun _ => ⟨wordZ1_encodeFields _ _ _, wordZ2_encodeFields _ _ _⟩
theorem anticoll : Statement .anticoll := fun _ => ⟨wordZ1_encodeFields _ _ _, wordZ2_encodeFields _ _ _⟩
theorem setBits (reg : RegAddr) (m : Byte) : Statement (.setBits reg m) :=
  fun _ => ⟨wordZ1_encodeFields _ _ _, wordZ2_encodeFields _ _ _⟩
theorem clearBits (reg : RegAddr) (m : Byte) : Statement (.clearBits reg m) :=
  fun _ => ⟨wordZ1_encodeFields _ _ _, wordZ2_encodeFields _ _ _⟩

end Sys2Proof.Laws.ReservedBitsZero
end

