-- ==== Sys2Proof/Laws/Step.lean ====
section
/-! SUPPORT. Said once: everything one step of an operation, and one step of the machine, can do. -/

namespace Sys2Proof.Machine

/-! ## Runs, one step at a time -/

@[simp] theorem run_zero (s : State) : run 0 s = .next s := rfl

/-- A run goes on from the state its first step answers. -/
theorem run_succ {n : Nat} {s t : State} (h : step s = .next t) : run (n + 1) s = run n t := by
  simp only [run, h]

/-- `run` is the host's `Host.Core.run` of this machine. -/
theorem run_eq_core (n : Nat) (s : State) : run n s = Host.Core.run Sys2Proof.core n s := by
  induction n generalizing s with
  | zero => rfl
  | succ n ih =>
    have hs : Sys2Proof.core.step s = step s := rfl
    cases h : step s <;> simp only [run, Host.Core.run, hs, h, ih] <;> rfl

@[simp] theorem runOp_zero (i : Instr) (s : State) : runOp i 0 s = .next s := rfl

/-- A run of an operation goes on from the state its first step answers. -/
theorem runOp_succ {i : Instr} {n : Nat} {s t : State} (h : exec i s = .next t) : runOp i (n + 1) s = runOp i n t := by
  simp only [runOp, h]

/-- Two runs of an operation in a row are one run. -/
theorem runOp_add {i : Instr} {m n : Nat} {s t : State} (h : runOp i m s = .next t) :
    runOp i (m + n) s = runOp i n t := by
  induction m generalizing s with
  | zero => cases h; rw [Nat.zero_add]
  | succ m ih =>
    rw [Nat.succ_add]
    cases he : exec i s with
    | next u => rw [runOp_succ he] at h ⊢; exact ih h
    | fault f => simp [runOp, he] at h
    | refused r => simp [runOp, he] at h

/-- Two runs in a row are one run. -/
theorem run_add {m n : Nat} {s t : State} (h : run m s = .next t) : run (m + n) s = run n t := by
  induction m generalizing s with
  | zero => cases h; rw [Nat.zero_add]
  | succ m ih =>
    rw [Nat.succ_add]
    cases he : step s with
    | next u => rw [run_succ he] at h ⊢; exact ih h
    | fault f => simp [run, he] at h
    | refused r => simp [run, he] at h

/-- An exchange operation at a position of the exchange performs that position, whatever the operation. -/
theorem exec_exchange {i : Instr} {p : XPos} {s : State} (hx : runsExchange i = true) (ph : s.work.phase = .xchg p) :
    exec i s = .next (exchangeStep (endPhase i) p s) := by
  cases i <;> simp only [runsExchange, Bool.false_eq_true] at hx <;>
    simp only [exec, execIdle, execTransceive, execAuthent, execSoftReset, execReceive, execTransmit, execCalcCrc,
      execExchange, execReqIdl, execReqAll, execRequest, execAnticoll, endPhase, ph]

/-! ## Effects -/

/-- Whether an operation is a REQUEST or ANTICOLL. -/
def isProtocol : Instr → Bool
  | .reqIdl | .reqAll | .anticoll => true
  | _ => false

/-- The register of a bit-mask operation. -/
def maskReg : Instr → Option RegAddr
  | .setBits reg _ | .clearBits reg _ => some reg
  | _ => none

/-- One atomic step of an operation, by the phase it starts in. -/
inductive ExecStep : Instr → State → State → Prop where
  | acceptExec {i s cmd l} (ph : s.work.phase = .idle) (hf : execForm s.params i = some (cmd, l))
      (hl : l.toNat ≤ Config.maxLen) : ExecStep i s (acceptExec cmd l s)
  | rejectLength {i s cmd l} (ph : s.work.phase = .idle) (hf : execForm s.params i = some (cmd, l))
      (hl : ¬ l.toNat ≤ Config.maxLen) : ExecStep i s (illegalOperation s)
  | acceptProtocol {i s} (ph : s.work.phase = .idle) (hp : isProtocol i = true) : ExecStep i s (accept .protoPre s)
  | acceptMask {i s reg} (ph : s.work.phase = .idle) (hm : maskReg i = some reg) : ExecStep i s (accept .rmwRead s)
  | requestPre {i s mode} (ph : s.work.phase = .protoPre) (hm : requestForm i = some mode) :
      ExecStep i s (requestPre mode s)
  | anticollPre {s} (ph : s.work.phase = .protoPre) : ExecStep .anticoll s (anticollPre s)
  | exchangeExec {i s p cmd l} (ph : s.work.phase = .xchg p) (hf : execForm s.params i = some (cmd, l)) :
      ExecStep i s (exchangeStep .xchgEnd p s)
  | exchangeProtocol {i s p} (ph : s.work.phase = .xchg p) (hp : isProtocol i = true) :
      ExecStep i s (exchangeStep .post p s)
  | commitExec {i s cmd l} (ph : s.work.phase = .xchgEnd) (hf : execForm s.params i = some (cmd, l)) :
      ExecStep i s (commitExec s)
  | commitRequest {i s mode} (ph : s.work.phase = .post) (hm : requestForm i = some mode) :
      ExecStep i s (commitRequest s)
  | commitAnticoll {s} (ph : s.work.phase = .post) : ExecStep .anticoll s (commitAnticoll s)
  | maskRead {i s reg} (ph : s.work.phase = .rmwRead) (hm : maskReg i = some reg) :
      ExecStep i s (setPhase .rmwWrite (rmwRead reg s))
  | setWrite {s reg m} (ph : s.work.phase = .rmwWrite) :
      ExecStep (.setBits reg m) s (setPhase .rmwEnd (setBitsWrite reg m s))
  | clearWrite {s reg m} (ph : s.work.phase = .rmwWrite) :
      ExecStep (.clearBits reg m) s (setPhase .rmwEnd (clearBitsWrite reg m s))
  | maskCommit {i s reg} (ph : s.work.phase = .rmwEnd) (hm : maskReg i = some reg) : ExecStep i s (commit s.host s)

theorem execExchange_step {i : Instr} {cmd l : Byte} {s t : State} (hf : execForm s.params i = some (cmd, l))
    (h : execExchange cmd l s = .next t) : ExecStep i s t := by
  unfold execExchange at h
  split at h
  · rename_i ph
    split at h <;> cases h
    · exact .acceptExec ph hf ‹_›
    · exact .rejectLength ph hf ‹_›
  · rename_i p ph; cases h; exact .exchangeExec ph hf
  · rename_i ph; cases h; exact .commitExec ph hf
  all_goals cases h

theorem execRequest_step {i : Instr} {mode : Byte} {s t : State} (hm : requestForm i = some mode)
    (hp : isProtocol i = true) (h : execRequest mode s = .next t) : ExecStep i s t := by
  unfold execRequest at h
  split at h <;> rename_i ph <;> cases h
  · exact .acceptProtocol ph hp
  · exact .requestPre ph hm
  · exact .exchangeProtocol ph hp
  · exact .commitRequest ph hm

theorem execAnticoll_step {s t : State} (h : execAnticoll s = .next t) : ExecStep .anticoll s t := by
  unfold execAnticoll at h
  split at h <;> rename_i ph <;> cases h
  · exact .acceptProtocol ph rfl
  · exact .anticollPre ph
  · exact .exchangeProtocol ph rfl
  · exact .commitAnticoll ph

/-- Everything one step of an operation can do. -/
theorem exec_step {i : Instr} {s t : State} (h : exec i s = .next t) : ExecStep i s t := by
  cases i with
  | idle l => exact execExchange_step rfl h
  | transceive l => exact execExchange_step rfl h
  | authent l => exact execExchange_step rfl h
  | softReset l => exact execExchange_step rfl h
  | receive l => exact execExchange_step rfl h
  | transmit l => exact execExchange_step rfl h
  | calcCrc l => exact execExchange_step rfl h
  | reqIdl => exact execRequest_step rfl rfl h
  | reqAll => exact execRequest_step rfl rfl h
  | anticoll => exact execAnticoll_step h
  | setBits reg m =>
    change execRmw reg (setBitsWrite reg m) s = _ at h
    unfold execRmw at h
    split at h <;> rename_i ph <;> cases h
    · exact .acceptMask ph rfl
    · exact .maskRead ph rfl
    · exact .setWrite ph
    · exact .maskCommit ph rfl
  | clearBits reg m =>
    change execRmw reg (clearBitsWrite reg m) s = _ at h
    unfold execRmw at h
    split at h <;> rename_i ph <;> cases h
    · exact .acceptMask ph rfl
    · exact .maskRead ph rfl
    · exact .clearWrite ph
    · exact .maskCommit ph rfl

/-- The effect of one move on a state from which it is already taken off the list of moves. -/
inductive MoveEffect (s t : State) : Prop where
  /-- CIX waits in IDLE, or the host's write reaches no register or is a CTRL write with bit 0 clear -/
  | nothing (h : t = s)
  /-- CIX performs the next step of the operation latched in OPL -/
  | cixStep {i} (ph : s.work.phase ≠ .idle) (hd : decode s.params s.work.opl = .legal i) (h : exec i s = .next t)
  /-- a GO whose word decodes -/
  | goAccept {i} (hb : s.host.busy = false) (hd : decode s.params (opWord s.host) = .legal i) (h : exec i s = .next t)
  /-- a GO whose word does not decode -/
  | goReject {why} (hb : s.host.busy = false) (hd : decode s.params (opWord s.host) = .illegal why)
      (h : t = illegalOperation s)
  /-- a host write while BUSY -/
  | hostFault (hb : s.host.busy = true) (h : t = hostProtocolFault s)
  /-- a host write that stores -/
  | hostStore {off v} (hb : s.host.busy = false) (h : t = { s with host := storeHost off v s.host })
  /-- a host read -/
  | hostRead {off} (h : t = noteRead off s)
  /-- the reset input -/
  | reset (h : t = applyReset s)

theorem cixMove_effect {s t : State} (h : cixMove s = .next t) : MoveEffect s t := by
  unfold cixMove at h
  split at h
  · cases h; exact .nothing rfl
  · rename_i ph
    split at h
    · rename_i i hd; exact .cixStep ph hd h
    · cases h

theorem hostWrite_effect {off : Offset} {v : Byte} {s t : State} (h : hostWrite off v s = .next t) :
    MoveEffect s t := by
  unfold hostWrite at h
  split at h
  · cases h; exact .nothing rfl
  · split at h
    · rename_i hb; cases h; exact .hostFault hb rfl
    · rename_i hb
      have hb' : s.host.busy = false := by simpa using hb
      split at h
      · split at h
        · unfold go at h
          split at h
          · rename_i i hd; exact .goAccept hb' hd h
          · rename_i why hd; cases h; exact .goReject hb' hd rfl
        · cases h; exact .nothing rfl
      · cases h; exact .hostStore hb' rfl

/-- Everything one step of the machine can do: it runs only under legal parameters, takes at most one move off the
list, and has one of the effects of `MoveEffect`. -/
theorem step_effect {s t : State} (h : step s = .next t) :
    s.params.legal = true ∧ ∃ rest, (rest = s.moves ∨ ∃ m, s.moves = m :: rest) ∧
      MoveEffect { s with moves := rest } t := by
  unfold step stepOf at h
  split at h
  · rename_i hl
    refine ⟨hl, ?_⟩
    unfold oneMove at h
    split at h
    · exact ⟨s.moves, .inl rfl, cixMove_effect h⟩
    · rename_i rest hm; exact ⟨rest, .inr ⟨_, hm⟩, cixMove_effect h⟩
    · rename_i off rest hm; cases h; exact ⟨rest, .inr ⟨_, hm⟩, .hostRead rfl⟩
    · rename_i off v rest hm; exact ⟨rest, .inr ⟨_, hm⟩, hostWrite_effect h⟩
    · rename_i rest hm
      split at h
      · exact ⟨s.moves, .inl rfl, cixMove_effect h⟩
      · cases h; exact ⟨rest, .inr ⟨_, hm⟩, .hostRead rfl⟩
    · rename_i rest hm; cases h; exact ⟨rest, .inr ⟨_, hm⟩, .reset rfl⟩
  · cases h

end Sys2Proof.Machine
end

