-- ==== Sys2Proof/Tests/Slice0.lean ====
section
/-! SUPPORT. Tests on fixed values, each about one step or one word, with the expected result taken from
spec/30_encoding.md or spec/95_test_vectors.md; then a witness for the hypotheses of every statement that has any. -/

namespace Sys2Proof.Tests

open Sys2Proof Sys2Proof.Machine

/-! ## Encodings (30_encoding.md R81 and R96; 95_test_vectors.md section 2.1) -/

theorem test_decode_idle : decode defaultParams 0x00000001 = .legal (.idle 0) := by decide
theorem test_decode_transceive : decode defaultParams 0x00100C01 = .legal (.transceive 16) := by decide
theorem test_decode_authent : decode defaultParams 0x00030E01 = .legal (.authent 3) := by decide
theorem test_decode_softReset : decode defaultParams 0x00000F01 = .legal (.softReset 0) := by decide
theorem test_decode_receive : decode defaultParams 0x00000801 = .legal (.receive 0) := by decide
theorem test_decode_transmit : decode defaultParams 0x00070401 = .legal (.transmit 7) := by decide
theorem test_decode_calcCrc : decode defaultParams 0x00010301 = .legal (.calcCrc 1) := by decide
theorem test_decode_reqIdl : decode defaultParams 0x00002602 = .legal .reqIdl := by decide
theorem test_decode_reqAll : decode defaultParams 0x00005202 = .legal .reqAll := by decide
theorem test_decode_anticoll : decode defaultParams 0x00000003 = .legal .anticoll := by decide
theorem test_decode_setBits : decode defaultParams 0x00FF3F04 = .legal (.setBits 0x3F 0xFF) := by decide
theorem test_decode_clearBits : decode defaultParams 0x00070D05 = .legal (.clearBits 0x0D 0x07) := by decide

/-- The ILLEGAL rows of section 2.1. -/
theorem test_decode_illegal :
    decode defaultParams 0x00000000 = .illegal .reservedOp ∧ decode defaultParams 0x00110C01 = .illegal .badLength
      ∧ decode defaultParams 0x00000D01 = .illegal .badCommand ∧ decode defaultParams 0x00001001 = .illegal .badCommand
      ∧ decode defaultParams 0x00002702 = .illegal .badMode ∧ decode defaultParams 0x00012602 = .illegal .badMode
      ∧ decode defaultParams 0x00000103 = .illegal .anticollOperand
      ∧ decode defaultParams 0x00000013 = .illegal .reservedLow
      ∧ decode defaultParams 0x01000003 = .illegal .reservedHigh
      ∧ decode defaultParams 0x00FF4004 = .illegal .badRegister
      ∧ decode defaultParams 0x00000006 = .illegal .reservedOp
      ∧ decode defaultParams 0x0000000F = .illegal .reservedOp := by decide

/-- The words that 95_test_vectors.md P1 and P3 print for their assembler lines. -/
theorem test_assemble :
    assemble defaultParams .reqIdl = some 0x00002602 ∧ assemble defaultParams .anticoll = some 0x00000003
      ∧ assemble defaultParams (.clearBits (.name .bitFraming) 0x07) = some 0x00070D05
      ∧ assemble defaultParams (.setBits (.name .fifoLevel) 0x80) = some 0x00800A04
      ∧ assemble defaultParams (.authent 3) = some 0x00030E01 := by decide

/-- The host sequence of ANTICOLL and of LDPAY 1, 0x04 (95_test_vectors.md P1 and P3). -/
theorem test_hostSequence :
    hostSequence defaultParams .anticoll
        = [.write 0x0C 0x03, .write 0x0D 0x00, .write 0x0E 0x00, .write 0x0F 0x00, .write 0x10 0x01]
      ∧ hostSequence defaultParams (.ldpay 1 0x04) = [.write 0x21 0x04] := by decide

/-! ## Well-formedness: an ill-formed term for each check (30_encoding.md R86; 00_scope.md R8) -/

theorem test_wellFormed_refuses :
    (Instr.idle 17).wellFormed = false ∧ (Instr.transceive 17).wellFormed = false
      ∧ (Instr.authent 17).wellFormed = false ∧ (Instr.softReset 17).wellFormed = false
      ∧ (Instr.receive 17).wellFormed = false ∧ (Instr.transmit 17).wellFormed = false
      ∧ (Instr.calcCrc 255).wellFormed = false := by decide

theorem test_wellFormed_accepts : (Instr.transceive 16).wellFormed = true ∧ (Instr.setBits 0x3F 0).wellFormed = true := by
  decide

theorem test_params_refused :
    ({ defaultParams with cmdReceive := 0x04 } : Params).legal = false
      ∧ ({ defaultParams with cmdReceive := 0x03 } : Params).legal = false
      ∧ ({ defaultParams with cmdTransmit := 0x03 } : Params).legal = false
      ∧ ({ defaultParams with cmdCalcCrc := 0x0C } : Params).legal = false
      ∧ ({ defaultParams with cmdTransmit := 0x00 } : Params).legal = false := by decide

/-! ## The interface of the host's own checks -/

theorem test_decodeTableWord : decodeTableWord 32 0x00800405 = some (.clearBits 0x04 0x80) := by decide
theorem test_decodeTableWord_refuses : decodeTableWord 32 0x00110C01 = none := by decide

/-- A word that withFetchWord placed is issued by the next step: BUSY is set and the word is latched (R95). -/
theorem test_withFetchWord :
    (nextOf (step (State.reset.withFetchWord 32 0x00002602))).map (fun t => (t.host.busy, t.work.opl, t.work.phase))
      = some (true, 0x00002602, .protoPre) := by decide

/-! ## One step each -/

/-- A state with an operation in flight at `ph`, and `answers` the PCD's next ones. -/
def inFlight (ph : Phase) (answers : List Byte) : State :=
  { State.reset with
    host := { HostRegs.reset with busy := true }, work := { WorkRegs.reset with phase := ph }, answers := answers }

/-- A Transceive exchange in flight at `p`, under the masks of R121. -/
def transceiving (p : XPos) (answers : List Byte) : State :=
  let s := inFlight (.xchg p) answers
  { s with work := { s.work with cmd := 0x0C, irqen := 0x77, waitirq := 0x30 } }

/-- The state after reset with the host's next moves laid out. -/
def hostMoves (moves : List Move) : State := { State.reset with moves := moves }

/-- The state after reset with `w` in OPW. -/
def holding (w : Word) : State := { State.reset with host := { HostRegs.reset with opw := opwOfWord w } }

/-- An exchange result to evaluate, as the working registers hold it in POST or at the EXEC commit. -/
def exchanged (ph : Phase) (xout : XOut) (cause : Cause) (bits : BitVec 16) (count : BitVec 5)
    (data : Vector Byte 16) : State :=
  let s := inFlight ph []
  { s with work := { s.work with wxout := xout, wcause := cause, wbits := bits, wcount := count, wdata := data } }

/-- Five response bytes. -/
def five (a b c d e : Byte) : Vector Byte 16 := #v[a, b, c, d, e, 0, 0, 0, 0, 0, 0, 0, 0, 0, 0, 0]

/-- Section 2.3: the masks of AUTHENT, and the payload latched (R95). -/
theorem test_accept_authent :
    (nextOf (exec (.authent 2) { State.reset with
      host := { HostRegs.reset with payload := setByte (.replicate 16 0) 1 0x5A } })).map
      (fun t => (t.work.irqen, t.work.waitirq, byteAt t.work.wpay 1, t.host.busy)) = some (0x12, 0x10, 0x5A, true) := by
  decide

/-- Section 2.3: the masks of SOFTRESET, CALCCRC and RECEIVE are zero; each has its own code. -/
theorem test_accept_softReset :
    (nextOf (exec (.softReset 0) State.reset)).map (fun t => (t.work.cmd, t.work.irqen)) = some (0x0F, 0x00) := by decide
theorem test_accept_calcCrc :
    (nextOf (exec (.calcCrc 16) State.reset)).map (fun t => (t.work.cmd, t.work.wlen)) = some (0x03, 16) := by decide
theorem test_accept_receive :
    (nextOf (exec (.receive 0) State.reset)).map (fun t => (t.work.cmd, t.work.waitirq)) = some (0x08, 0x00) := by decide
theorem test_accept_transmit :
    (nextOf (exec (.transmit 1) State.reset)).map (fun t => (t.work.cmd, t.work.wlen)) = some (0x04, 1) := by decide

/-- Section 2.2: SETBITS 0x0A, 0x80 writes 0x85 after a read of 0x05; CLEARBITS 0x0D, 0xFF writes 0x00 after 0x87. -/
theorem test_setBits_read :
    (nextOf (exec (.setBits 0x0A 0x80) (inFlight .rmwRead [0x05]))).map (fun t => (t.work.t, t.work.phase))
      = some (0x05, .rmwWrite) := by decide
theorem test_setBits_write :
    (let s := inFlight .rmwWrite []
     (nextOf (exec (.setBits 0x0A 0x80) { s with work := { s.work with t := 0x05 } })).map (·.trace))
      = some [.wr Config.pcdBusAddr 0x0A 0x85] := rfl
theorem test_clearBits_write :
    (let s := inFlight .rmwWrite []
     (nextOf (exec (.clearBits 0x04 0x80) { s with work := { s.work with t := 0xFF } })).map (·.trace))
      = some [.wr Config.pcdBusAddr 0x04 0x7F] := rfl

/-- P1 line 1 and the ANTICOLL trace's line 1: the framing written before the exchange. -/
theorem test_reqAll_frames :
    (nextOf (exec .reqAll (inFlight .protoPre []))).map (fun t => (t.trace, byteAt t.work.wpay 0))
      = some ([.wr Config.pcdBusAddr 0x0D 0x07], 0x52) := rfl
theorem test_anticoll_frames :
    (nextOf (exec .anticoll (inFlight .protoPre []))).map (fun t => (t.trace, byteAt t.work.wpay 1))
      = some ([.wr Config.pcdBusAddr 0x0D 0x00], 0x20) := rfl

/-- Section 2.4: completion on read 1999 is taken, on read 2000 it is a timeout. -/
theorem test_poll_read1999 :
    (let s := transceiving .poll [0x30]
     (nextOf (exec (.transceive 0) { s with work := { s.work with i := 2 } })).map (fun t => (t.work.phase, t.work.i)))
      = some (.xchg .error, 1) := by decide
theorem test_poll_read2000 :
    (let s := transceiving .poll [0x30]
     (nextOf (exec (.transceive 0) { s with work := { s.work with i := 1 } })).map
       (fun t => (t.work.phase, t.work.wcause))) = some (.xchgEnd, .timeout) := by decide
/-- Section 2.4: 0x40 is in neither mask; the timer bit ends the poll of Idle. -/
theorem test_poll_other_bits :
    (let s := transceiving .poll [0x40]
     (nextOf (exec .reqIdl { s with work := { s.work with i := 2000 } })).map (fun t => (t.work.phase, t.work.i)))
      = some (.xchg .poll, 1999) := by decide
theorem test_poll_timer_bit :
    (let s := inFlight (.xchg .poll) [0x01]
     (nextOf (exec (.idle 0) { s with work := { s.work with i := 1998 } })).map (fun t => (t.work.phase, t.work.i)))
      = some (.xchg .error, 1997) := by decide

/-- Section 2.5: ErrorReg 0xE4 with a completion is Ok and read back; 0x08 with the timer bit is CHIP_ERROR. -/
theorem test_error_ignored_bits :
    (let s := transceiving .error [0xE4]
     (nextOf (exec (.transceive 0) { s with work := { s.work with nirq := 0x30 } })).map
       (fun t => (t.work.wxout, t.work.phase))) = some (.ok, .xchg .level) := by decide
theorem test_error_wins :
    (let s := transceiving .error [0x08]
     (nextOf (exec .anticoll { s with work := { s.work with nirq := 0x01 } })).map
       (fun t => (t.work.wxout, t.work.wcause, t.work.phase))) = some (.protocolError, .chipError, .post) := by decide

/-- Section 2.6: bit lengths and counts, from the level read and ControlReg 0x01 or 0xF8. -/
theorem test_length_negative :
    (nextOf (exec (.transceive 0) (transceiving .control [0x01]))).map (fun t => (t.work.wbits.toInt, t.work.wcount))
      = some (-7, 1) := by decide
theorem test_length_unclamped :
    (let s := transceiving .control [0x01]
     (nextOf (exec (.transceive 0) { s with work := { s.work with lvl := 0x40 } })).map
       (fun t => (t.work.wbits.toInt, t.work.wcount))) = some (505, 16) := by decide

/-- Section 2.7: the RESULT byte and CARDTYPE of a REQUEST. -/
theorem test_request_success :
    (nextOf (exec .reqIdl (exchanged .post .noCardDetected .noCard 16 2 (five 0x44 0 0 0 0)))).map
      (fun t => (hostRead t.host 0x01, hostRead t.host 0x02, hostRead t.host 0x06)) = some (0x11, 0x00, 0x44) := by
  decide
theorem test_request_bad_length :
    (nextOf (exec .reqAll (exchanged .post .ok .none 15 2 (five 0x04 0 0 0 0)))).map
      (fun t => (hostRead t.host 0x01, hostRead t.host 0x02, hostRead t.host 0x06)) = some (0x04, 0x04, 0x00) := by
  decide

/-- Section 2.8: the RESULT byte and the UID of an ANTICOLL. -/
theorem test_anticoll_success :
    (nextOf (exec .anticoll (exchanged .post .ok .none 35 5 (five 0x12 0x34 0x56 0x78 0x08)))).map
      (fun t => (hostRead t.host 0x01, t.host.uid)) = some (0x20, #v[0x12, 0x34, 0x56, 0x78]) := by decide
theorem test_anticoll_mismatch :
    (nextOf (exec .anticoll (exchanged .post .ok .none 40 5 (five 0x12 0x34 0x56 0x78 0x00)))).map
      (fun t => (hostRead t.host 0x01, hostRead t.host 0x02, t.host.uid)) = some (0x0C, 0x05, #v[0, 0, 0, 0]) := by decide

/-- Section 2.9: the rejected GO, the host-protocol fault, the read-only write, the reset. -/
theorem test_rejected_go :
    (nextOf (step (hostMoves [.write 0x10 0x01]))).map
      (fun t => (hostRead t.host 0x00, hostRead t.host 0x02, t.trace)) = some (0x06, 0x06, []) := by decide
theorem test_write_while_busy :
    (nextOf (step { inFlight .rmwRead [] with moves := [.write 0x23 0x5A] })).map
      (fun t => (hostRead t.host 0x00, hostRead t.host 0x23)) = some (0x09, 0x00) := by decide
theorem test_ctrl_write_while_busy :
    (nextOf (step { inFlight .rmwRead [] with moves := [.write 0x10 0x00] })).map (fun t => t.host.fault)
      = some true := by decide
theorem test_read_only_write :
    (nextOf (step { inFlight .rmwRead [] with moves := [.write 0x00 0xFF] })).map (fun t => hostRead t.host 0x00)
      = some 0x01 := by decide
theorem test_payload_write :
    (nextOf (step (hostMoves [.write 0x2F 0x5A]))).map (fun t => hostRead t.host 0x2F) = some 0x5A := by decide
theorem test_reset_in_flight :
    (nextOf (step { inFlight (.xchg .poll) [] with moves := [.reset] })).map (fun t => (t.host, t.work.phase, t.trace))
      = some (HostRegs.reset, .idle, []) := by decide

/-! ## Witnesses: for every statement with hypotheses, a state and operands that meet them -/

theorem witness_DecodeEncodeRoundTrip :
    defaultParams.legal = true ∧ (Instr.transceive 16).wellFormed = true ∧ (Instr.calcCrc 0).wellFormed = true
      ∧ (Instr.clearBits 0x3F 0xFF).wellFormed = true := by decide

theorem witness_EncodeDecodeRoundTrip : decode defaultParams 0x00FF3F05 = .legal (.clearBits 0x3F 0xFF) := by decide

theorem witness_ReservedWordsAreRejected :
    let s := hostMoves [.write 0x10 0x01]
    s.params.legal = true ∧ s.moves = .write 0x10 0x01 :: [] ∧ (0x01 : Byte).getLsbD 0 = true ∧ s.host.busy = false
      ∧ decode s.params (opWord s.host) = .illegal .reservedOp := by decide

/-- Boundary values of R93's cases: the largest length and the codes beside the legal ones. -/
theorem witness_ReservedWordsAreRejected_cases :
    decode defaultParams 0x00100C01 = .legal (.transceive 16) ∧ decode defaultParams 0x00110C01 = .illegal .badLength
      ∧ decode defaultParams 0x00003F04 = .legal (.setBits 0x3F 0x00)
      ∧ decode defaultParams 0x00004004 = .illegal .badRegister
      ∧ decode defaultParams 0x00000005 = .legal (.clearBits 0x00 0x00)
      ∧ decode defaultParams 0x00000006 = .illegal .reservedOp := by decide

theorem witness_ResetClearsEveryRegister :
    let s := { inFlight (.xchg .poll) [0x30] with moves := [.reset] }
    s.params.legal = true ∧ s.moves = .reset :: [] ∧ s.host.busy = true := by decide

theorem witness_BindingFixedForLife :
    (∃ s t : State, step s = .next t ∧ t.trace ≠ s.trace) ∧ ∃ s t : State, step s = .next t ∧ t.trace = s.trace :=
  ⟨⟨{ inFlight .rmwWrite [] with work := { WorkRegs.reset with phase := .rmwWrite, opl := 0x00800405 } }, _, rfl,
    by decide⟩, ⟨hostMoves [.reset], _, rfl, rfl⟩⟩

/-- One state for each way to break R8's condition. -/
theorem witness_IllegalParametersRefused :
    (∃ s : State, s.params.cmdReceive = s.params.cmdTransmit)
      ∧ (∃ s : State, s.params.cmdReceive = s.params.cmdCalcCrc)
      ∧ (∃ s : State, s.params.cmdTransmit = s.params.cmdCalcCrc)
      ∧ (∃ s : State, s.params.cmdCalcCrc = 0x0F) :=
  ⟨⟨{ State.reset with params := { defaultParams with cmdReceive := 0x04 } }, rfl⟩,
    ⟨{ State.reset with params := { defaultParams with cmdReceive := 0x03 } }, rfl⟩,
    ⟨{ State.reset with params := { defaultParams with cmdTransmit := 0x03 } }, rfl⟩,
    ⟨{ State.reset with params := { defaultParams with cmdCalcCrc := 0x0F } }, rfl⟩⟩

theorem witness_HostReadHasNoSideEffect :
    let s := { inFlight (.xchg .poll) [] with moves := [.read 0x3F, .read 0x00] }
    s.params.legal = true ∧ s.moves = .read 0x3F :: [.read 0x00] := by decide

/-- The ends of each range of the read map. -/
theorem witness_HostReadHasNoSideEffect_map :
    (0x07 : Offset).toNat = 0x07 + (0 : Fin 4).val ∧ (0x0A : Offset).toNat = 0x07 + (3 : Fin 4).val
      ∧ (0x0C : Offset).toNat = 0x0C + (0 : Fin 4).val ∧ (0x0F : Offset).toNat = 0x0C + (3 : Fin 4).val
      ∧ (0x20 : Offset).toNat = 0x20 + (0 : Fin 16).val ∧ (0x2F : Offset).toNat = 0x20 + (15 : Fin 16).val
      ∧ (0x30 : Offset).toNat = 0x30 + (0 : Fin 16).val ∧ (0x3F : Offset).toNat = 0x30 + (15 : Fin 16).val := by decide

/-- The ends of each range of offsets that ignores a write or reads as zero. -/
theorem witness_ReservedOffsetsAreInert :
    (∀ off ∈ ([0x0B, 0x11, 0x1F] : List Offset), off.toNat = 0x0B ∨ (0x11 ≤ off.toNat ∧ off.toNat ≤ 0x1F))
      ∧ ∀ off ∈ ([0x00, 0x0B, 0x11, 0x1F, 0x30, 0x3F] : List Offset),
          (off.toNat ≤ 0x0B ∨ (0x11 ≤ off.toNat ∧ off.toNat ≤ 0x1F) ∨ 0x30 ≤ off.toNat)
            ∧ (hostMoves [.write off 0xFF]).params.legal = true
            ∧ (hostMoves [.write off 0xFF]).moves = .write off 0xFF :: [] := by decide

/-- The ends of each range of offsets that stores. -/
theorem witness_HostWriteStoresOneByte :
    ∀ off ∈ ([0x0C, 0x0F, 0x20, 0x2F] : List Offset),
      ((0x0C ≤ off.toNat ∧ off.toNat ≤ 0x0F) ∨ (0x20 ≤ off.toNat ∧ off.toNat ≤ 0x2F))
        ∧ (hostMoves [.write off 0x5A]).params.legal = true
        ∧ (hostMoves [.write off 0x5A]).moves = .write off 0x5A :: []
        ∧ (hostMoves [.write off 0x5A]).host.busy = false := by decide

theorem witness_CtrlHoldsNoState :
    let s := hostMoves [.write 0x10 0xFE]
    s.params.legal = true ∧ s.moves = .write 0x10 0xFE :: [] ∧ s.host.busy = false ∧ (0xFE : Byte).getLsbD 0 = false
      ∧ (0x01 : Byte).getLsbD 0 = (0xFF : Byte).getLsbD 0 := by decide

/-- The ends of each range of offsets that faults while BUSY. -/
theorem witness_HostWriteWhileBusyFaults :
    ∀ off ∈ ([0x0C, 0x10, 0x20, 0x2F] : List Offset),
      let s := { inFlight (.xchg .push) [] with moves := [.write off 0x00] }
      ((0x0C ≤ off.toNat ∧ off.toNat ≤ 0x10) ∨ (0x20 ≤ off.toNat ∧ off.toNat ≤ 0x2F))
        ∧ s.params.legal = true ∧ s.moves = .write off 0x00 :: [] ∧ s.host.busy = true := by decide

theorem witness_IllegalOperationIsPrecise :
    let s := { holding 0x00110C01 with moves := [.write 0x10 0xFF, .read 0x00] }
    s.params.legal = true ∧ s.moves = .write 0x10 0xFF :: [.read 0x00] ∧ (0xFF : Byte).getLsbD 0 = true
      ∧ s.host.busy = false ∧ decode s.params (opWord s.host) = .illegal .badLength := by decide

theorem witness_StepRunsIssuedWord :
    let s := { holding 0x00030E01 with moves := [.write 0x10 0x01, .waitDone] }
    s.params.legal = true ∧ s.moves = .write 0x10 0x01 :: [.waitDone] ∧ (0x01 : Byte).getLsbD 0 = true
      ∧ s.host.busy = false ∧ decode s.params (opWord s.host) = .legal (.authent 3) := by decide

/-- A CLEARBITS in flight before its write. -/
def clearing (moves : List Move) : State :=
  let s := inFlight .rmwWrite []
  { s with work := { s.work with opl := 0x00800405, t := 0xFF }, moves := moves }

theorem witness_StepContinuesLatchedOperation :
    (clearing []).params.legal = true ∧ (clearing []).work.phase ≠ .idle
      ∧ decode (clearing []).params (clearing []).work.opl = .legal (.clearBits 0x04 0x80) ∧ (clearing []).moves = []
      ∧ (clearing [.cix]).moves = .cix :: [] ∧ (clearing [.waitDone]).moves = .waitDone :: []
      ∧ (clearing [.waitDone]).host.busy = true := by decide

theorem witness_IdleMachineWaits :
    State.reset.params.legal = true ∧ State.reset.work.phase = .idle ∧ State.reset.moves = []
      ∧ (hostMoves [.cix]).work.phase = .idle ∧ (hostMoves [.cix]).moves = .cix :: [] := by decide

theorem witness_PlacedWordRunsNext :
    State.reset.params.legal = true ∧ (Instr.transmit 16).wellFormed = true := by decide

/-- All seven EXEC variants, at the largest legal length and at zero. -/
theorem witness_ExecAcceptance :
    State.reset.work.phase = .idle
      ∧ ∀ l ∈ ([0, 16] : List Byte), l.toNat ≤ 16
        ∧ execForm State.reset.params (.idle l) = some (0x00, l)
        ∧ execForm State.reset.params (.transceive l) = some (0x0C, l)
        ∧ execForm State.reset.params (.authent l) = some (0x0E, l)
        ∧ execForm State.reset.params (.softReset l) = some (0x0F, l)
        ∧ execForm State.reset.params (.receive l) = some (0x08, l)
        ∧ execForm State.reset.params (.transmit l) = some (0x04, l)
        ∧ execForm State.reset.params (.calcCrc l) = some (0x03, l) := by decide

theorem witness_ProtocolAndMaskAcceptance :
    State.reset.work.phase = .idle ∧ Instr.anticoll ∈ [Instr.reqIdl, Instr.reqAll, Instr.anticoll]
      ∧ Instr.clearBits 0x3F 0x80 ∈ [Instr.setBits 0x3F 0x80, Instr.clearBits 0x3F 0x80] := by decide

theorem witness_OverlongExecRejected :
    execForm State.reset.params (.receive 17) = some (0x08, 17) ∧ 16 < (17 : Byte).toNat
      ∧ State.reset.work.phase = .idle := by decide

/-- With and without payload, and with answers laid out. -/
theorem witness_ExchangeArmsFlushesAndIdles :
    let s := transceiving .enable [0xFF, 0x05]
    runsExchange .reqIdl = true ∧ s.work.phase = .xchg .enable ∧ s.work.wlen = 0
      ∧ s.answers = 0xFF :: 0x05 :: [] ∧ ({ s with work := { s.work with wlen := 16 } } : State).work.wlen ≠ 0 := by decide

/-- No payload and the largest one, for Transceive and for another command. -/
theorem witness_PayloadPushedInOrder :
    let s := transceiving .loadIdle []
    let u := inFlight (.xchg .loadIdle) []
    runsExchange (.transceive 0) = true ∧ s.work.phase = .xchg .loadIdle ∧ s.work.wlen.toNat ≤ 16 ∧ s.work.cmd = 0x0C
      ∧ runsExchange (.idle 16) = true ∧ u.work.phase = .xchg .loadIdle ∧ u.work.cmd ≠ 0x0C
      ∧ ({ u with work := { u.work with wlen := 16 } } : State).work.wlen.toNat ≤ 16 := by decide

theorem witness_StartSendSetsBitSeven :
    runsExchange .anticoll = true ∧ (transceiving .sendRead [0x07]).work.phase = .xchg .sendRead := by decide

/-- A poll with `i` iterations remaining. -/
def polling (i : BitVec 11) (answers : List Byte) : State :=
  let s := transceiving .poll answers
  { s with work := { s.work with i := i } }

/-- One state for each of the three exits of an iteration. -/
theorem witness_PollIteration :
    runsExchange .reqAll = true ∧ (polling 1 []).work.phase = .xchg .poll ∧ (polling 1 []).work.i = 1
      ∧ (polling 2 [0x10]).work.i ≠ 1 ∧ pcdAnswer 0x04 (polling 2 [0x10]) &&& (polling 2 [0x10]).work.waitirq ≠ 0
      ∧ (pcdAnswer 0x04 (polling 2 [0x01])).getLsbD 0 = true
      ∧ (pcdAnswer 0x04 (polling 2000 [0x4E])).getLsbD 0 = false
      ∧ pcdAnswer 0x04 (polling 2000 [0x4E]) &&& (polling 2000 [0x4E]).work.waitirq = 0 := by decide

/-- A completion on the last read that may still take it. -/
theorem witness_PollStopsAtFirstCompletion :
    let s := polling 4 [0x40, 0x00, 0x20, 0x99]
    runsExchange .anticoll = true ∧ s.work.phase = .xchg .poll ∧ s.answers = [0x40, 0x00] ++ 0x20 :: [0x99]
      ∧ (∀ x ∈ ([0x40, 0x00] : List Byte), x.getLsbD 0 = false ∧ x &&& s.work.waitirq = 0)
      ∧ ((0x20 : Byte).getLsbD 0 = true ∨ (0x20 : Byte) &&& s.work.waitirq ≠ 0)
      ∧ ([0x40, 0x00] : List Byte).length + 1 < s.work.i.toNat := by decide

/-- A completion first seen on the last read of the budget. -/
theorem witness_PollTimesOutAtBudget :
    let s := polling 3 [0x40, 0x00, 0x20, 0x99]
    runsExchange .anticoll = true ∧ s.work.phase = .xchg .poll ∧ s.answers = [0x40, 0x00] ++ 0x20 :: [0x99]
      ∧ (∀ x ∈ ([0x40, 0x00] : List Byte), x.getLsbD 0 = false ∧ x &&& s.work.waitirq = 0)
      ∧ ([0x40, 0x00] : List Byte).length + 1 = s.work.i.toNat := by decide

/-- One state for each outcome. -/
theorem witness_ErrorRegisterDecidesOutcome :
    let s := transceiving .error [0x01]
    let u := transceiving .error [0xE4]
    runsExchange (.transceive 0) = true ∧ s.work.phase = .xchg .error ∧ (0x01 : Byte) = pcdAnswer 0x06 s
      ∧ (0x01 : Byte) &&& 0x1B ≠ 0 ∧ (0xE4 : Byte) = pcdAnswer 0x06 u ∧ (0xE4 : Byte) &&& 0x1B = 0
      ∧ u.work.nirq &&& u.work.irqen &&& 0x01 = 0
      ∧ ({ u with work := { u.work with nirq := 0x01 } } : State).work.nirq &&& u.work.irqen &&& 0x01 ≠ 0
      ∧ (0x0E : Byte) ≠ 0x0C := by decide

theorem witness_ReadBackLengthAndCount :
    let s := transceiving .level [0x02, 0xFF, 0x04]
    runsExchange .reqIdl = true ∧ s.work.phase = .xchg .level ∧ s.answers = 0x02 :: 0xFF :: [0x04] := by decide

/-- One response byte and sixteen. -/
theorem witness_ResponseReadInOrder :
    let fetching := fun (n : BitVec 5) (data : List Byte) =>
      let s := transceiving .fetch data
      ({ s with work := { s.work with wcount := n } } : State)
    runsExchange (.transceive 0) = true
      ∧ (fetching 1 [0x04]).work.phase = .xchg .fetch ∧ (fetching 1 [0x04]).work.k = 0
      ∧ 1 ≤ (fetching 1 [0x04]).work.wcount.toNat ∧ ([0x04] : List Byte).length = (fetching 1 [0x04]).work.wcount.toNat
      ∧ (fetching 1 [0x04]).answers = [0x04] ++ []
      ∧ (fetching 16 (.replicate 16 0xAA)).work.wcount.toNat ≤ 16
      ∧ (List.replicate 16 (0xAA : Byte)).length = (fetching 16 (.replicate 16 0xAA)).work.wcount.toNat := by decide

/-- The boundary levels of R147's three cases. -/
theorem witness_LengthFitsCountExactlyUpToSixteen :
    (1 ≤ (1 : Byte).toNat ∧ (1 : Byte).toNat ≤ 16) ∧ (1 ≤ (16 : Byte).toNat ∧ (16 : Byte).toNat ≤ 16)
      ∧ 16 < (17 : Byte).toNat ∧ (0 : Byte) = 0 := by decide

theorem witness_SixteenBitsMeansTwoWholeBytes : BitVec.ofInt 16 (backLen 2 0) = 16 := by decide

theorem witness_ExecCommit :
    execForm (inFlight .xchgEnd []).params (.softReset 3) = some (0x0F, 3) ∧ (inFlight .xchgEnd []).work.phase = .xchgEnd := by
  decide

theorem witness_ProtocolFramesBeforeExchange :
    (inFlight .protoPre []).work.phase = .protoPre
      ∧ ((Instr.reqAll = .reqIdl ∧ (0x52 : Byte) = 0x26) ∨ (Instr.reqAll = .reqAll ∧ (0x52 : Byte) = 0x52))
      ∧ ((Instr.reqIdl = .reqIdl ∧ (0x26 : Byte) = 0x26) ∨ (Instr.reqIdl = .reqAll ∧ (0x26 : Byte) = 0x52)) := by decide

/-- One state for each of R163's outcomes. -/
theorem witness_RequestCommit :
    let s := exchanged .post .protocolError .timeout 0 0 (five 0 0 0 0 0)
    let u := exchanged .post .noCardDetected .noCard 8 1 (five 0x44 0 0 0 0)
    let v := exchanged .post .ok .none 16 2 (five 0x04 0 0 0 0)
    s.work.phase = .post ∧ s.work.wxout = .protocolError ∧ u.work.phase = .post ∧ u.work.wxout ≠ .protocolError
      ∧ u.work.wbits ≠ 16 ∧ v.work.phase = .post ∧ v.work.wxout ≠ .protocolError ∧ v.work.wbits = 16 := by decide

/-- One state for each of the outcomes of R178 to R180. -/
theorem witness_AnticollCommit :
    let s := exchanged .post .noCardDetected .noCard 40 5 (five 0x12 0x34 0x56 0x78 0x08)
    let u := exchanged .post .ok .none 32 4 (five 0x12 0x34 0x56 0x78 0x00)
    let v := exchanged .post .ok .none 40 5 (five 0x12 0x34 0x56 0x78 0x08)
    s.work.phase = .post ∧ s.work.wxout ≠ .ok ∧ u.work.wxout = .ok ∧ u.work.wcount ≠ 5 ∧ v.work.wcount = 5
      ∧ byteAt v.work.wdata 0 ^^^ byteAt v.work.wdata 1 ^^^ byteAt v.work.wdata 2 ^^^ byteAt v.work.wdata 3
          = byteAt v.work.wdata 4
      ∧ byteAt u.work.wdata 0 ^^^ byteAt u.work.wdata 1 ^^^ byteAt u.work.wdata 2 ^^^ byteAt u.work.wdata 3
          ≠ byteAt u.work.wdata 4 := by decide

theorem witness_AnticollSuccessCondition :
    (exchanged .post .ok .none 35 5 (five 0xFF 0xFF 0xFF 0xFF 0x00)).work.phase = .post := by decide

theorem witness_MaskOperationsReadModifyWrite : State.reset.work.phase = .idle := by decide

theorem witness_MaskOperationSteps :
    (inFlight .rmwRead [0x05]).work.phase = .rmwRead ∧ (clearing []).work.phase = .rmwWrite
      ∧ (inFlight .rmwEnd []).work.phase = .rmwEnd
      ∧ Instr.setBits 0x00 0x00 ∈ [Instr.setBits 0x00 0x00, Instr.clearBits 0x00 0x00] := by decide

/-- An operation of each kind in a phase of its own, and in one it never enters. -/
theorem witness_OperationsGoOnInTheirPhases :
    ownsPhase .anticoll .post = true ∧ ownsPhase (.authent 3) (.xchg .poll) = true
      ∧ ownsPhase (.setBits 0x01 0x00) .rmwEnd = true ∧ ownsPhase (.idle 0) .post = false
      ∧ ownsPhase .reqIdl .xchgEnd = false ∧ ownsPhase (.clearBits 0x01 0x00) (.xchg .poll) = false := by decide

theorem witness_OnlyNamedPcdRegistersAccessed :
    (∃ t x, exec .reqIdl (inFlight .protoPre []) = .next t ∧ t.trace = x :: (inFlight .protoPre []).trace
        ∧ runsExchange .reqIdl = true)
      ∧ ∃ t x, exec (.clearBits 0x3F 0x80) (clearing []) = .next t ∧ t.trace = x :: (clearing []).trace :=
  ⟨⟨_, _, rfl, rfl, rfl⟩, _, _, rfl, rfl⟩

/-- A CLEARBITS in flight meets the invariant, and so does a REQUEST at its commit. -/
theorem witness_EveryStepKeepsInvariant : (clearing []).Inv ∧ ∃ t, step (clearing []) = .next t := ⟨by decide, _, rfl⟩

/-- The invariant holds in the middle of an exchange, with the host about to write. -/
theorem witness_MachineNeverStops :
    let s := polling 2000 [0x30]
    ({ s with work := { s.work with opl := 0x00010C01, wlen := 1 }, moves := [.write 0x10 0x01] } : State).Inv := by decide

theorem witness_HostRegistersFrozenWhileBusy :
    ∃ s t : State, s.host.busy = true ∧ step s = .next t ∧ t.host.busy = true ∧ t.host.fault ≠ s.host.fault :=
  ⟨{ inFlight (.xchg .poll) [] with moves := [.write 0x20 0x5A] }, _, rfl, rfl, rfl, by decide⟩

theorem witness_FaultIsStickyAndInert :
    (∃ s t : State, s.host.fault = true ∧ step s = .next t ∧ t.host.fault = false)
      ∧ ∃ (s t : State), exec (.clearBits 0x04 0x80) s = .next t :=
  ⟨⟨{ State.reset with host := { HostRegs.reset with fault := true }, moves := [.reset] }, _, rfl, rfl, rfl⟩,
    clearing [], _, rfl⟩

/-- A CLEARBITS before its write, and an exchange at the start of its poll. -/
theorem witness_EveryOperationEnds :
    ((clearing []).Inv ∧ (clearing []).host.busy = true ∧ (clearing []).moves = [])
      ∧ let s := polling 2000 []
        let u : State := { s with work := { s.work with opl := 0x00100C01, wlen := 16 } }
        u.Inv ∧ u.host.busy = true ∧ u.moves = [] := by decide

theorem witness_AssembledLineIssuesItsWord :
    let s := hostMoves (hostSequence defaultParams (.setBits (.name .fifoLevel) 0x80) ++ [.waitDone])
    s.params.legal = true ∧ s.host.busy = false
      ∧ assemble s.params (.setBits (.name .fifoLevel) 0x80) = some 0x00800A04
      ∧ s.moves = hostSequence s.params (.setBits (.name .fifoLevel) 0x80) ++ [.waitDone] := by decide

/-- A WAITDONE after the commit, and one operand of each kind for the words. -/
theorem witness_AssembledLineIssuesItsWord_clauses :
    (hostMoves [.waitDone, .read 0x01]).params.legal = true
      ∧ (hostMoves [.waitDone, .read 0x01]).moves = hostSequence defaultParams .waitDone ++ [.read 0x01]
      ∧ (hostMoves [.waitDone, .read 0x01]).host.busy = false
      ∧ (AsmCmd.calcCrc, (0x03 : Byte)) ∈ [(AsmCmd.transmit, defaultParams.cmdTransmit),
          (AsmCmd.calcCrc, defaultParams.cmdCalcCrc)]
      ∧ (AsmMode.reqAll, (0x52 : Byte)) ∈ [(AsmMode.reqIdl, 0x26), (AsmMode.reqAll, (0x52 : Byte))]
      ∧ AsmReg.number 0x3F = .number 0x3F := by decide

/-- The word `w` in OPW, the GO as the one move, and the PCD's answers. -/
def issued (w : Word) (answers : List Byte) : State :=
  { holding w with moves := [.write 0x10 0x01], answers := answers }

/-- 95_test_vectors.md P1's REQIDL: completion on the second poll. -/
theorem witness_RequestReadsCardType :
    let s := issued 0x00002602 ([0x00, 0x00, 0x07] ++ [0x00] ++ [0x30, 0x00, 0x02, 0x00, 0x04, 0x00])
    s.params.legal = true ∧ s.work.phase = .idle ∧ s.host.busy = false ∧ s.moves = [.write 0x10 0x01]
      ∧ (0x01 : Byte).getLsbD 0 = true ∧ decode s.params (opWord s.host) = .legal .reqIdl
      ∧ s.answers = 0x00 :: 0x00 :: 0x07 :: ([0x00] ++ 0x30 :: 0x00 :: 0x02 :: 0x00 :: 0x04 :: 0x00 :: [])
      ∧ (∀ x ∈ ([0x00] : List Byte), x &&& 0x31 = 0) ∧ (0x30 : Byte) &&& 0x31 ≠ 0
      ∧ ([0x00] : List Byte).length + 1 < 2000 ∧ (0x00 : Byte) &&& 0x1B = 0 ∧ (0x00 : Byte) &&& 0x07 = 0 := by decide

/-- 95_test_vectors.md P1's ANTICOLL: completion on the third poll, and the checksum S3 gives. -/
theorem witness_AnticollReadsUid :
    let s := issued 0x00000003
      ([0x30, 0x00, 0x00] ++ [0x00, 0x00] ++ [0x30, 0x00, 0x05, 0x00, 0x12, 0x34, 0x56, 0x78, 0x08])
    s.params.legal = true ∧ s.work.phase = .idle ∧ s.host.busy = false ∧ s.moves = [.write 0x10 0x01]
      ∧ decode s.params (opWord s.host) = .legal .anticoll
      ∧ s.answers = 0x30 :: 0x00 :: 0x00
          :: ([0x00, 0x00] ++ 0x30 :: 0x00 :: 0x05 :: 0x00 :: 0x12 :: 0x34 :: 0x56 :: 0x78 :: 0x08 :: [])
      ∧ (∀ x ∈ ([0x00, 0x00] : List Byte), x &&& 0x31 = 0) ∧ (0x30 : Byte) &&& 0x30 ≠ 0 ∧ (0x30 : Byte) &&& 0x01 = 0
      ∧ ([0x00, 0x00] : List Byte).length + 1 < 2000 ∧ (0x00 : Byte) &&& 0x1B = 0
      ∧ (0x12 : Byte) ^^^ 0x34 ^^^ 0x56 ^^^ 0x78 = 0x08 ∧ (0x12 : Byte) ^^^ 0x34 ^^^ 0x56 ^^^ 0x78 ≠ 0x00 := by decide

/-- 95_test_vectors.md P2: an operation against a silent PCD; and an AUTHENT whose polls show only 0x20 (section 2.4). -/
theorem witness_SilentPcdTimesOut :
    (∃ s : State, s.params.legal = true ∧ exchangeForm s.params .reqAll = some (0x0C, 1) ∧ s.work.phase = .idle
        ∧ s.host.busy = false ∧ s.moves = [.write 0x10 0x01] ∧ decode s.params (opWord s.host) = .legal .reqAll
        ∧ ([0x00, 0x00, 0x00] : List Byte).length = (if (0x0C : Byte) = 0x0C then 3 else 2)
        ∧ s.answers = [0x00, 0x00, 0x00] ++ List.replicate 1999 0x00 ++ 0x00 :: []
        ∧ (List.replicate 1999 (0x00 : Byte)).length = 1999
        ∧ ∀ x ∈ List.replicate 1999 (0x00 : Byte), x.getLsbD 0 = false ∧ x &&& waitMask 0x0C = 0)
      ∧ ∃ s : State, exchangeForm s.params (.authent 3) = some (0x0E, 3)
        ∧ decode s.params (opWord s.host) = .legal (.authent 3) ∧ s.moves = [.write 0x10 0x01]
        ∧ ([0x00, 0x00] : List Byte).length = (if (0x0E : Byte) = 0x0C then 3 else 2)
        ∧ s.answers = [0x00, 0x00] ++ List.replicate 1999 0x20 ++ 0x20 :: []
        ∧ ∀ x ∈ List.replicate 1999 (0x20 : Byte), x.getLsbD 0 = false ∧ x &&& waitMask 0x0E = 0 := by
  refine ⟨⟨issued 0x00005202 ([0x00, 0x00, 0x00] ++ List.replicate 1999 0x00 ++ [0x00]), by decide, by decide,
      by decide, by decide, rfl, by decide, by decide, rfl, List.length_replicate, fun x hx => ?_⟩,
    ⟨issued 0x00030E01 ([0x00, 0x00] ++ List.replicate 1999 0x20 ++ [0x20]), by decide, by decide, rfl, by decide, rfl,
      fun x hx => ?_⟩⟩
  · obtain rfl := List.eq_of_mem_replicate hx; decide
  · obtain rfl := List.eq_of_mem_replicate hx; decide

/-- A level of 1 (one byte), of 0 (still one byte) and above 16 (sixteen bytes). -/
theorem witness_TransceiveReadsResponse :
    let s := issued 0x00100C01 ([0x00, 0x00, 0x07] ++ [] ++ [0x30, 0x00, 0x01, 0x00, 0xAB])
    s.params.legal = true ∧ s.work.phase = .idle ∧ s.host.busy = false ∧ s.moves = [.write 0x10 0x01]
      ∧ decode s.params (opWord s.host) = .legal (.transceive 16)
      ∧ s.answers = 0x00 :: 0x00 :: 0x07 :: ([] ++ 0x30 :: 0x00 :: 0x01 :: 0x00 :: ([0xAB] ++ []))
      ∧ (0x30 : Byte) &&& 0x31 ≠ 0 ∧ (0x00 : Byte) &&& 0x1B = 0
      ∧ ([0xAB] : List Byte).length = (if (0x01 : Byte) = 0 then 1 else if 16 < (0x01 : Byte).toNat then 16 else 1)
      ∧ ([0xAB] : List Byte).length = (if (0x00 : Byte) = 0 then 1 else if 16 < (0x00 : Byte).toNat then 16 else 0)
      ∧ (List.replicate 16 (0xAB : Byte)).length
          = (if (0x11 : Byte) = 0 then 1 else if 16 < (0x11 : Byte).toNat then 16 else 17) := by decide

/-- 95_test_vectors.md P3's AUTHENT: completion on the second poll. -/
theorem witness_OtherCommandsReadNothingBack :
    let s := issued 0x00030E01 ([0x00, 0x00] ++ [0x20] ++ [0x10, 0x04])
    s.params.legal = true ∧ execForm s.params (.authent 3) = some (0x0E, 3) ∧ (0x0E : Byte) ≠ 0x0C
      ∧ s.work.phase = .idle ∧ s.host.busy = false ∧ s.moves = [.write 0x10 0x01]
      ∧ decode s.params (opWord s.host) = .legal (.authent 3)
      ∧ s.answers = 0x00 :: 0x00 :: ([0x20] ++ 0x10 :: 0x04 :: [])
      ∧ (∀ x ∈ ([0x20] : List Byte), x.getLsbD 0 = false ∧ x &&& waitMask 0x0E = 0)
      ∧ ((0x10 : Byte).getLsbD 0 = true ∨ (0x10 : Byte) &&& waitMask 0x0E ≠ 0)
      ∧ ([0x20] : List Byte).length + 1 < 2000 := by decide

/-- A Transceive exchange of ANTICOLL and an exchange of AUTHENT that complete with an error bit set. -/
theorem witness_ChipErrorEndsExchange :
    (let s := issued 0x00000003 ([0x30, 0x00, 0x00] ++ [0x40] ++ [0x30, 0x10])
     s.params.legal = true ∧ exchangeForm s.params .anticoll = some (0x0C, 2) ∧ s.work.phase = .idle
      ∧ s.host.busy = false ∧ s.moves = [.write 0x10 0x01] ∧ (0x01 : Byte).getLsbD 0 = true
      ∧ decode s.params (opWord s.host) = .legal .anticoll
      ∧ ([0x30, 0x00, 0x00] : List Byte).length = (if (0x0C : Byte) = 0x0C then 3 else 2)
      ∧ s.answers = [0x30, 0x00, 0x00] ++ [0x40] ++ 0x30 :: 0x10 :: []
      ∧ (∀ x ∈ ([0x40] : List Byte), x.getLsbD 0 = false ∧ x &&& waitMask 0x0C = 0)
      ∧ ((0x30 : Byte).getLsbD 0 = true ∨ (0x30 : Byte) &&& waitMask 0x0C ≠ 0)
      ∧ ([0x40] : List Byte).length + 1 < 2000 ∧ (0x10 : Byte) &&& 0x1B ≠ 0)
    ∧ let s := issued 0x00100E01 ([0x00, 0x00] ++ [] ++ [0x11, 0x01])
      exchangeForm s.params (.authent 16) = some (0x0E, 16) ∧ s.moves = [.write 0x10 0x01]
      ∧ decode s.params (opWord s.host) = .legal (.authent 16)
      ∧ ([0x00, 0x00] : List Byte).length = (if (0x0E : Byte) = 0x0C then 3 else 2)
      ∧ s.answers = [0x00, 0x00] ++ [] ++ 0x11 :: 0x01 :: []
      ∧ ((0x11 : Byte).getLsbD 0 = true ∨ (0x11 : Byte) &&& waitMask 0x0E ≠ 0) ∧ (0x01 : Byte) &&& 0x1B ≠ 0 := by
  decide

end Sys2Proof.Tests
end

