-- ==== Sys2Proof/Proofs/Scope.lean ====
section
/-! Proofs about the parameters of an instance (spec/00_scope.md R8). -/

namespace Sys2Proof

/-- `Params.legal` is the condition of spec/00_scope.md R8: the three command codes are pairwise distinct, and none of
them is one of the four fixed codes. -/
theorem Params.legal_iff (p : Params) :
    p.legal = true ↔
      p.cmdReceive ≠ p.cmdTransmit ∧ p.cmdReceive ≠ p.cmdCalcCrc ∧ p.cmdTransmit ≠ p.cmdCalcCrc
        ∧ ∀ c ∈ [p.cmdReceive, p.cmdTransmit, p.cmdCalcCrc], ∀ fixed ∈ ([0x00, 0x0C, 0x0E, 0x0F] : List Byte),
            fixed ≠ c := by
  simp only [Params.legal, Bool.and_eq_true, decide_eq_true_eq, List.all_eq_true, bne_iff_ne, and_assoc]

namespace Machine

/-- A machine with illegal parameters is refused whatever the environment's next move is (log 24). -/
theorem step_of_not_legal {s : State} (h : ¬ s.params.legal = true) : step s = .refused .illegalParameters :=
  if_neg h

/-- Settles O7: each way to break R8's condition contradicts one clause of `Params.legal_iff`. -/
theorem illegalParametersRefused : Obligations.IllegalParametersRefused := by
  intro s broken
  refine step_of_not_legal fun legal => ?_
  obtain ⟨receive_ne_transmit, receive_ne_calcCrc, transmit_ne_calcCrc, not_fixed⟩ := s.params.legal_iff.mp legal
  obtain same | same | same | ⟨c, hc, is_fixed⟩ := broken
  · exact receive_ne_transmit same
  · exact receive_ne_calcCrc same
  · exact transmit_ne_calcCrc same
  · have c_mem : c ∈ ([0x00, 0x0C, 0x0E, 0x0F] : List Byte) := by simpa using is_fixed
    exact not_fixed c hc c c_mem rfl

end Machine

end Sys2Proof
end

section
/-! Proofs about the host port (spec/10_state.md R22 to R36): one rule per move of the host, and what a store does to
every offset. -/

namespace Sys2Proof.Machine

/-! ## The step of a host access -/

/-- A host read only takes its move off the list and notes the value (R35). -/
theorem step_of_read {s : State} {off : Offset} {rest : List Move} (legal : s.params.legal = true)
    (next_move : s.moves = .read off :: rest) : step s = .next (noteRead off { s with moves := rest }) := by
  simp only [step, stepOf, if_pos legal, oneMove, next_move]

/-- A host write is `hostWrite` on the state with the move taken off the list. -/
theorem step_of_write {s : State} {off : Offset} {v : Byte} {rest : List Move} (legal : s.params.legal = true)
    (next_move : s.moves = .write off v :: rest) : step s = hostWrite off v { s with moves := rest } := by
  simp only [step, stepOf, if_pos legal, oneMove, next_move]

/-- The registers a host write reaches are OPW, CTRL and PAYLOAD (R36). -/
theorem hostWritable_iff (off : Offset) :
    hostWritable off = true ↔ 0x0C ≤ off.toNat ∧ off.toNat ≤ 0x10 ∨ 0x20 ≤ off.toNat ∧ off.toNat ≤ 0x2F :=
  decide_eq_true_iff

/-- A write to CTRL depends on bit 0 of the value only (R31). -/
theorem hostWrite_ctrl (v : Byte) (s : State) :
    hostWrite 0x10 v s =
      if s.host.busy then .next (hostProtocolFault s) else if v.getLsbD 0 then go s else .next s := rfl

/-! ## Reads -/

/-- The reserved offsets read as zero (R34). -/
theorem hostRead_reserved (h : HostRegs) (off : Offset)
    (reserved : off.toNat = 0x0B ∨ 0x11 ≤ off.toNat ∧ off.toNat ≤ 0x1F) : hostRead h off = 0x00 := by
  unfold hostRead
  simp only [show ¬ off.toNat = 0 by omega, show ¬ off.toNat = 1 by omega, show ¬ off.toNat = 2 by omega,
    show ¬ off.toNat = 3 by omega, show ¬ off.toNat = 4 by omega, show ¬ off.toNat = 5 by omega,
    show ¬ off.toNat = 6 by omega, show ¬ (7 ≤ off.toNat ∧ off.toNat ≤ 10) by omega,
    show ¬ (12 ≤ off.toNat ∧ off.toNat ≤ 15) by omega, show ¬ (32 ≤ off.toNat ∧ off.toNat ≤ 47) by omega,
    show ¬ 48 ≤ off.toNat by omega, if_false]

/-- Only the offsets of OPW show OPW. -/
theorem hostRead_opw_frame (h : HostRegs) (opw : Vector Byte 4) (off : Offset)
    (outside : ¬ (0x0C ≤ off.toNat ∧ off.toNat ≤ 0x0F)) : hostRead { h with opw := opw } off = hostRead h off := by
  simp only [hostRead, outside, if_false]
  rfl

/-- Only the offsets of PAYLOAD show PAYLOAD. -/
theorem hostRead_payload_frame (h : HostRegs) (payload : Vector Byte 16) (off : Offset)
    (outside : ¬ (0x20 ≤ off.toNat ∧ off.toNat ≤ 0x2F)) :
    hostRead { h with payload := payload } off = hostRead h off := by
  simp only [hostRead, outside, if_false]
  rfl

/-- Read after store on the host port (R36). -/
theorem hostRead_storeHost (h : HostRegs) (off o : Offset) (v : Byte)
    (stores : 0x0C ≤ off.toNat ∧ off.toNat ≤ 0x0F ∨ 0x20 ≤ off.toNat ∧ off.toNat ≤ 0x2F) :
    hostRead (storeHost off v h) o = if o = off then v else hostRead h o := by
  obtain ⟨low, high⟩ | ⟨low, high⟩ := stores
  · rw [storeHost_opw h off v low high]
    by_cases inside : 0x0C ≤ o.toNat ∧ o.toNat ≤ 0x0F
    · rw [hostRead_opw _ o inside.1 inside.2, hostRead_opw _ o inside.1 inside.2, byteAt_setByte]
      have same_entry : (off.toNat - 0x0C = o.toNat - 0x0C ∧ o.toNat - 0x0C < 4) ↔ o = off := by
        rw [← BitVec.toNat_inj]; omega
      simp only [same_entry]
    · rw [hostRead_opw_frame _ _ _ inside, if_neg]
      rintro rfl
      exact inside ⟨low, high⟩
  · rw [storeHost_payload h off v low high]
    by_cases inside : 0x20 ≤ o.toNat ∧ o.toNat ≤ 0x2F
    · rw [hostRead_payload _ o inside.1 inside.2, hostRead_payload _ o inside.1 inside.2, byteAt_setByte]
      have same_entry : (off.toNat - 0x20 = o.toNat - 0x20 ∧ o.toNat - 0x20 < 16) ↔ o = off := by
        rw [← BitVec.toNat_inj]; omega
      simp only [same_entry]
    · rw [hostRead_payload_frame _ _ _ inside, if_neg]
      rintro rfl
      exact inside ⟨low, high⟩

/-! ## The bit places of the status registers -/

/-- The bit places of STATUS (R23). -/
theorem statusByte_bits (h : HostRegs) :
    (statusByte h).getLsbD 0 = h.busy ∧ (statusByte h).getLsbD 1 = h.done ∧ (statusByte h).getLsbD 2 = h.ill
      ∧ (statusByte h).getLsbD 3 = h.fault ∧ (statusByte h).extractLsb' 4 4 = 0 := by
  unfold statusByte
  generalize h.busy = busy, h.done = done, h.ill = ill, h.fault = fault
  revert busy done ill fault
  decide

/-- The fields of RESULT (R24). -/
theorem resultByte_fields (h : HostRegs) :
    (resultByte h).extractLsb' 0 2 = xoutCode h.xout ∧ (resultByte h).extractLsb' 2 2 = presCode h.pres
      ∧ (resultByte h).extractLsb' 4 2 = seqCode h.seq ∧ (resultByte h).extractLsb' 6 2 = 0 := by
  unfold resultByte
  generalize xoutCode h.xout = xout, presCode h.pres = pres, seqCode h.seq = seq
  revert xout pres seq
  decide

/-- The fields of CAUSE (R25). -/
theorem causeByte_fields (h : HostRegs) :
    (causeByte h).extractLsb' 0 3 = causeCode h.cause ∧ (causeByte h).extractLsb' 3 5 = 0 := by
  unfold causeByte
  generalize causeCode h.cause = cause
  revert cause
  decide

/-- RBITS_LO and RBITS_HI are the two bytes of RBITS (R27). -/
theorem rbits_bytes (h : HostRegs) : (rbitsLo h).toNat + 256 * (rbitsHi h).toNat = h.rbits.toNat := by
  have := h.rbits.isLt
  simp only [rbitsLo, rbitsHi, BitVec.extractLsb'_toNat, Nat.shiftRight_eq_div_pow]
  omega

/-! ## The statements about the host port -/

/-- Settles O8, register by register; the codes are the definitions of `xoutCode` to `causeCode`. -/
theorem statusAndResultLayout : Obligations.StatusAndResultLayout :=
  ⟨fun h => ⟨statusByte_bits h, resultByte_fields h, causeByte_fields h, rbits_bytes h⟩, by decide, by decide, by decide,
    by decide⟩

/-- Settles O9: the step is `noteRead`, and each byte file is read at the entry its offset names. -/
theorem hostReadHasNoSideEffect : Obligations.HostReadHasNoSideEffect := by
  refine ⟨fun s off rest legal next_move => step_of_read legal next_move, fun h off => ⟨rfl, rfl, ?_, ?_, ?_, ?_⟩⟩
  all_goals intro k at_k
  · rw [hostRead_uid h off (by omega) (by omega), at_k, Nat.add_sub_cancel_left, byteAt_fin]
  · rw [hostRead_opw h off (by omega) (by omega), at_k, Nat.add_sub_cancel_left, byteAt_fin]
  · rw [hostRead_payload h off (by omega) (by omega), at_k, Nat.add_sub_cancel_left, byteAt_fin]
  · rw [hostRead_rdata h off (by omega), at_k, Nat.add_sub_cancel_left, byteAt_fin]

/-- Settles O10: these offsets are outside the writable ones, so a write to them is ignored before BUSY is looked at. -/
theorem reservedOffsetsAreInert : Obligations.ReservedOffsetsAreInert := by
  refine ⟨hostRead_reserved, fun s off v rest inert legal next_move => ?_⟩
  rw [step_of_write legal next_move]
  have unwritable : ¬ hostWritable off = true := by rw [hostWritable_iff]; omega
  exact hostWrite_unwritable off v _ (by simpa using unwritable)

/-- Settles O11: the step is the store, and `hostRead_storeHost` says what it does at every offset. -/
theorem hostWriteStoresOneByte : Obligations.HostWriteStoresOneByte := by
  intro s off v rest stores legal next_move not_busy
  have writable : hostWritable off = true := by rw [hostWritable_iff]; omega
  have not_ctrl : off ≠ 0x10 := by rintro rfl; revert stores; decide
  have stored := hostWrite_store off v { s with moves := rest } writable not_busy not_ctrl
  refine ⟨_, (step_of_write legal next_move).trans stored, ?_, fun o other => ?_, rfl, rfl, rfl, rfl, rfl⟩
  · exact (hostRead_storeHost _ _ _ _ stores).trans (if_pos rfl)
  · exact (hostRead_storeHost _ _ _ _ stores).trans (if_neg other)

/-- Settles O12 by `hostWrite_ctrl`: the value of a write to CTRL counts by its bit 0 only. -/
theorem ctrlHoldsNoState : Obligations.CtrlHoldsNoState := by
  refine ⟨hostRead_ctrl, fun s v rest legal next_move not_busy bit_clear => ?_, fun s v w rest same_bit => ?_⟩
  · rw [step_of_write legal next_move, hostWrite_ctrl, if_neg (by simp [not_busy]),
      if_neg (bit_clear ▸ Bool.false_ne_true)]
  · have same_write : hostWrite 0x10 v { s with moves := rest } = hostWrite 0x10 w { s with moves := rest } := by
      rw [hostWrite_ctrl, hostWrite_ctrl, same_bit]
    simp only [step, stepOf, oneMove, same_write]

end Sys2Proof.Machine
end

section
/-! Proofs about the phases of an operation (spec/10_state.md R41) and the host registers while it is in flight (R37). -/

namespace Sys2Proof.Machine

/-! ## An operation in a phase of its own, and in another -/

/-- The answer of an operation in a phase that it `owns` or not: a next state, or the stop of log 10. -/
abbrev AnswersIfOwned (owns : Bool) (r : Result) : Prop :=
  (owns = true → ∃ t, r = .next t) ∧ (owns = false → r = .fault .foreignPhase)

theorem answersIfOwned_next (t : State) : AnswersIfOwned true (.next t) := ⟨fun _ => ⟨t, rfl⟩, nofun⟩

theorem answersIfOwned_fault : AnswersIfOwned false (.fault .foreignPhase) := ⟨nofun, fun _ => rfl⟩

/-- The phases of EXEC, whatever its variant. -/
theorem execExchange_answersIfOwned (cmd l : Byte) (s : State) :
    AnswersIfOwned (ownsPhase (.idle l) s.work.phase) (execExchange cmd l s) := by
  unfold execExchange
  cases s.work.phase with
  | idle | xchg | xchgEnd => exact answersIfOwned_next _
  | protoPre | rmwRead | rmwWrite | rmwEnd | post => exact answersIfOwned_fault

/-- The phases of REQUEST, whatever its mode. -/
theorem execRequest_answersIfOwned (mode : Byte) (s : State) :
    AnswersIfOwned (ownsPhase .reqIdl s.work.phase) (execRequest mode s) := by
  unfold execRequest
  cases s.work.phase with
  | idle | protoPre | xchg | post => exact answersIfOwned_next _
  | xchgEnd | rmwRead | rmwWrite | rmwEnd => exact answersIfOwned_fault

/-- The phases of ANTICOLL. -/
theorem execAnticoll_answersIfOwned (s : State) :
    AnswersIfOwned (ownsPhase .anticoll s.work.phase) (execAnticoll s) := by
  unfold execAnticoll
  cases s.work.phase with
  | idle | protoPre | xchg | post => exact answersIfOwned_next _
  | xchgEnd | rmwRead | rmwWrite | rmwEnd => exact answersIfOwned_fault

/-- The phases of a bit-mask operation, whatever it writes. -/
theorem execRmw_answersIfOwned (reg : RegAddr) (m : Byte) (write : State → State) (s : State) :
    AnswersIfOwned (ownsPhase (.setBits reg m) s.work.phase) (execRmw reg write s) := by
  unfold execRmw
  cases s.work.phase with
  | idle | rmwRead | rmwWrite | rmwEnd => exact answersIfOwned_next _
  | protoPre | xchg | xchgEnd | post => exact answersIfOwned_fault

/-- Settles O40: the twelve operations have four shapes, and the variants of a shape own the same phases. -/
theorem operationsGoOnInTheirPhases : Obligations.OperationsGoOnInTheirPhases := by
  intro i s
  cases i with
  | idle l | transceive l | authent l | softReset l | receive l | transmit l | calcCrc l =>
    exact execExchange_answersIfOwned _ l s
  | reqIdl | reqAll => exact execRequest_answersIfOwned _ s
  | anticoll => exact execAnticoll_answersIfOwned s
  | setBits reg m | clearBits reg m => exact execRmw_answersIfOwned reg m _ s

/-! ## The host registers while an operation is in flight -/

/-- A step of an operation in flight leaves the host registers alone, or is a commit (R37). -/
theorem ExecStep.host_same_or_commit {i : Instr} {s t : State} (h : ExecStep i s t) (in_flight : s.work.phase ≠ .idle) :
    t.host = s.host ∨ ∃ r, t = commit r s := by
  cases h with
  | acceptExec ph | rejectLength ph | acceptProtocol ph | acceptMask ph => exact absurd ph in_flight
  | exchangeExec | exchangeProtocol => exact .inl (exchangeStep_frame _ _ s).host
  | commitExec | commitRequest | commitAnticoll | maskCommit => exact .inr ⟨_, rfl⟩
  | requestPre | anticollPre | maskRead | setWrite | clearWrite => exact .inl rfl

/-- Settles O45: with BUSY set before and after the step, no acceptance, store, commit or reset has taken place. -/
theorem hostRegistersFrozenWhileBusy : Obligations.HostRegistersFrozenWhileBusy := by
  intro s t busy h still_busy
  obtain ⟨-, rest, -, effect⟩ := step_effect h
  have host_same (same : t.host = s.host) : t.host = { s.host with fault := t.host.fault } := by rw [same]
  cases effect with
  | nothing ht | hostRead ht => subst ht; exact host_same rfl
  | cixStep ph _ h =>
    obtain same | ⟨r, rfl⟩ := (exec_step h).host_same_or_commit ph
    · exact host_same same
    · cases still_busy
  | hostFault _ ht => rw [ht]; rfl
  | goAccept not_busy | goReject not_busy | hostStore not_busy => exact absurd (busy.symm.trans not_busy) (by decide)
  | reset ht => rw [ht] at still_busy; cases still_busy

end Sys2Proof.Machine
end

section
/-! Proofs about the invariant of the machine (Safety, `State.Inv`): what `latchedOk` says phase by phase, one rule per
way a step treats the state (in IDLE, acceptance, the middle of an operation, commit), and that every step keeps it. -/

namespace Sys2Proof.Machine

/-! ## The latched operation, phase by phase -/

section LatchedOk
variable {s : State} {i : Instr}

/-- With no operation in flight nothing is asked of the latched word. -/
theorem latchedOk_idle (ph : s.work.phase = .idle) : latchedOk s = true := by
  simp only [latchedOk, ph]

/-- An operation in flight is a legal one, in a phase of its own (R95). -/
theorem latchedOk_decode (h : latchedOk s = true) (in_flight : s.work.phase ≠ .idle) :
    ∃ i, decode s.params s.work.opl = .legal i ∧ ownsPhase i s.work.phase = true := by
  unfold latchedOk at h
  split at h
  · exact absurd ‹_› in_flight
  · split at h
    · cases h
    · exact ⟨_, ‹_›, (Bool.and_eq_true_iff.mp h).1⟩

/-- In the middle of an exchange. -/
theorem latchedOk_xchg {p : XPos} (ph : s.work.phase = .xchg p) (hd : decode s.params s.work.opl = .legal i) :
    latchedOk s = true ↔ ownsPhase i (.xchg p) = true
      ∧ exchangeForm s.params i = some (s.work.cmd, s.work.wlen.setWidth 8) ∧ ExchangeInv s.work
      ∧ positionOk s.work p = true := by
  simp only [latchedOk, ph, hd, Bool.and_eq_true, decide_eq_true_eq, and_assoc]

/-- At the end of an exchange: EXEC's commit, or the evaluation of REQUEST and ANTICOLL. -/
theorem latchedOk_end (ph : s.work.phase = .xchgEnd ∨ s.work.phase = .post)
    (hd : decode s.params s.work.opl = .legal i) :
    latchedOk s = true ↔ ownsPhase i s.work.phase = true
      ∧ exchangeForm s.params i = some (s.work.cmd, s.work.wlen.setWidth 8) ∧ ExchangeInv s.work := by
  obtain ph | ph := ph <;>
    simp only [latchedOk, ph, hd, Bool.and_eq_true, decide_eq_true_eq]

/-- In a phase without an exchange. -/
theorem latchedOk_noExchange {ph : Phase} (hph : s.work.phase = ph)
    (no_exchange : ph ∈ [Phase.protoPre, .rmwRead, .rmwWrite, .rmwEnd])
    (hd : decode s.params s.work.opl = .legal i) (owns : ownsPhase i ph = true) : latchedOk s = true := by
  simp only [List.mem_cons, List.not_mem_nil, or_false] at no_exchange
  obtain rfl | rfl | rfl | rfl := no_exchange <;> simp only [latchedOk, hph, hd, owns, Bool.and_self]

end LatchedOk

/-! ## Whose phases an operation owns, by its form -/

section Forms
variable {i : Instr}

theorem ownsPhase_of_execForm {p : Params} {cmd l : Byte} (hf : execForm p i = some (cmd, l)) :
    (∀ q, ownsPhase i (.xchg q) = true) ∧ ownsPhase i .xchgEnd = true ∧ exchangeForm p i = some (cmd, l) := by
  cases i with
  | idle | transceive | authent | softReset | receive | transmit | calcCrc => exact ⟨fun _ => rfl, rfl, hf⟩
  | reqIdl | reqAll | anticoll | setBits | clearBits => cases hf

theorem ownsPhase_of_isProtocol (hp : isProtocol i = true) :
    ownsPhase i .protoPre = true ∧ (∀ q, ownsPhase i (.xchg q) = true) ∧ ownsPhase i .post = true := by
  cases i with
  | reqIdl | reqAll | anticoll => exact ⟨rfl, fun _ => rfl, rfl⟩
  | _ => cases hp

theorem ownsPhase_of_requestForm {mode : Byte} (hm : requestForm i = some mode) (p : Params) :
    (∀ q, ownsPhase i (.xchg q) = true) ∧ exchangeForm p i = some (cmdTransceive, 1) := by
  cases i with
  | reqIdl | reqAll => exact ⟨fun _ => rfl, rfl⟩
  | _ => cases hm

theorem ownsPhase_of_maskReg {reg : RegAddr} (hm : maskReg i = some reg) :
    ownsPhase i .rmwRead = true ∧ ownsPhase i .rmwWrite = true ∧ ownsPhase i .rmwEnd = true := by
  cases i with
  | setBits | clearBits => exact ⟨rfl, rfl, rfl⟩
  | _ => cases hm

end Forms

/-! ## One rule per way a step treats the state -/

section Rules
variable {s t : State}

theorem State.Inv.legal (inv : s.Inv) : s.params.legal = true := inv.1
theorem State.Inv.results (inv : s.Inv) : ResultInv s.host := inv.2.2.1
theorem State.Inv.latched (inv : s.Inv) : latchedOk s = true := inv.2.2.2

/-- With no operation in flight the invariant asks for BUSY = 0 and for results in their ranges. -/
theorem inv_of_idle (legal : t.params.legal = true) (idle : t.work.phase = .idle) (not_busy : t.host.busy = false)
    (results : ResultInv t.host) : t.Inv :=
  ⟨legal, ⟨by rw [not_busy, idle]; rfl, fun busy => by cases not_busy.symm.trans busy⟩, results, latchedOk_idle idle⟩

/-- BUSY = 0 is IDLE (R41). -/
theorem State.Inv.idle_of_not_busy (inv : s.Inv) (not_busy : s.host.busy = false) : s.work.phase = .idle := by
  obtain ⟨-, ⟨busy_iff, -⟩, -⟩ := inv
  simpa [not_busy] using busy_iff

/-- An acceptance sets BUSY, clears DONE and ILL, and keeps the results (R95). -/
theorem State.Inv.accept (inv : s.Inv) (params : t.params = s.params)
    (host : t.host = { s.host with busy := true, done := false, ill := false }) (in_flight : t.work.phase ≠ .idle)
    (latched : latchedOk t = true) : t.Inv := by
  obtain ⟨legal, -, results, -⟩ := inv
  refine ⟨params ▸ legal, ?_, ?_, latched⟩
  · rw [StatusInv, host]
    exact ⟨by simp [in_flight], fun _ => ⟨rfl, rfl⟩⟩
  · rw [host]
    exact results

/-- A step in the middle of an operation keeps the host registers (R37). -/
theorem State.Inv.goOn (inv : s.Inv) (params : t.params = s.params) (host : t.host = s.host)
    (was_in_flight : s.work.phase ≠ .idle) (in_flight : t.work.phase ≠ .idle) (latched : latchedOk t = true) :
    t.Inv := by
  obtain ⟨legal, ⟨busy_iff, exclusive⟩, results, -⟩ := inv
  refine ⟨params ▸ legal, ?_, host ▸ results, latched⟩
  rw [StatusInv, host]
  exact ⟨by rw [busy_iff]; simp [was_in_flight, in_flight], exclusive⟩

/-- A commit needs results in their ranges (R37). -/
theorem State.Inv.commit (inv : s.Inv) {r : HostRegs} (results : ResultInv r) : (Machine.commit r s).Inv :=
  inv_of_idle inv.legal rfl rfl results

/-- Reset needs legal parameters only (R220). -/
theorem inv_of_reset (legal : t.params.legal = true) (host : t.host = HostRegs.reset) (work : t.work = WorkRegs.reset) :
    t.Inv := by
  refine inv_of_idle legal (by rw [work]; rfl) (by rw [host]; rfl) ?_
  rw [host]
  exact ⟨by decide, by decide, fun k _ => byteAt_replicate 16 k, by decide, by decide, by decide⟩

end Rules

/-! ## The exchange -/

section Exchange
variable {i : Instr} {s : State}

/-- An exchange begins with its own masks and lengths, and with nothing read (R120, R121). -/
theorem latchedOk_beginExchange {cmd : Byte} {l : BitVec 5} (hd : decode s.params s.work.opl = .legal i)
    (owns : ∀ q, ownsPhase i (.xchg q) = true) (form : exchangeForm s.params i = some (cmd, l.setWidth 8))
    (fits : l.toNat ≤ 16) : latchedOk (beginExchange cmd l s) = true := by
  refine (latchedOk_xchg (s := beginExchange cmd l s) rfl hd).mpr ⟨owns .enable, form, ⟨rfl, rfl, fits, ?_, ?_, ?_⟩, rfl⟩
  · exact Nat.zero_le 16
  · exact (by decide : -7 ≤ (0 : BitVec 16).toInt ∧ (0 : BitVec 16).toInt ≤ 2040)
  · exact fun k _ => byteAt_replicate 16 k

/-- Every position of the exchange keeps the invariant, whether it goes on or ends. -/
theorem State.Inv.exchange (inv : s.Inv) {p : XPos} {after : Phase} (ph : s.work.phase = .xchg p)
    (hd : decode s.params s.work.opl = .legal i) (ends : after = .xchgEnd ∨ after = .post)
    (owns : ownsPhase i after = true) : (exchangeStep after p s).Inv := by
  obtain ⟨owns_xchg, form, regs, position⟩ := (latchedOk_xchg ph hd).mp inv.latched
  have after_outside : ∀ q, after ≠ .xchg q := by rintro q rfl; simp at ends
  have after_in_flight : after ≠ .idle := by rintro rfl; simp at ends
  have frame := exchangeStep_frame after p s
  obtain ⟨regs', position'⟩ := exchangeStep_inv after_outside ph regs position
  have hd' : decode (exchangeStep after p s).params (exchangeStep after p s).work.opl = .legal i := by
    rw [frame.params, frame.setup.opl, hd]
  have form' : exchangeForm (exchangeStep after p s).params i
      = some ((exchangeStep after p s).work.cmd, (exchangeStep after p s).work.wlen.setWidth 8) := by
    rw [frame.params, frame.setup.cmd, frame.setup.wlen, form]
  have was_in_flight : s.work.phase ≠ .idle := by simp [ph]
  obtain ⟨q, ph'⟩ | ph' := exchangeStep_phase after p s
  · exact inv.goOn frame.params frame.host was_in_flight (by simp [ph'])
      ((latchedOk_xchg ph' hd').mpr ⟨owns_xchg, form', regs', position' q ph'⟩)
  · exact inv.goOn frame.params frame.host was_in_flight (by rwa [ph'])
      ((latchedOk_end (by rwa [ph']) hd').mpr ⟨by rwa [ph'], form', regs'⟩)

end Exchange

/-! ## The results of a commit -/

section Commit
variable {s : State}

/-- What every exchange commits is in its range (R26, R27, R33), and the fields it does not name keep theirs. -/
theorem resultInv_exchangeFields {cause : Cause} (results : ResultInv s.host) (regs : ExchangeInv s.work)
    (at_end : s.work.phase = .xchgEnd ∨ s.work.phase = .post) : ResultInv (exchangeFields cause s) := by
  obtain ⟨-, -, -, pres_seq, pres_cardtype, pres_uid⟩ := results
  obtain ⟨-, -, -, count, bits, data⟩ := regs
  have rcount : (exchangeFields cause s).rcount.toNat = s.work.wcount.toNat :=
    (BitVec.toNat_setWidth _ _).trans (Nat.mod_eq_of_lt (by omega))
  have filled_eq : filled s.work = s.work.wcount.toNat := by
    obtain ph | ph := at_end <;> simp only [filled, ph]
  refine ⟨rcount ▸ count, bits, fun k hk => data k ?_, pres_seq, pres_cardtype, pres_uid⟩
  rwa [filled_eq, ← rcount]

/-- The results of a REQUEST (R164): a failure leaves SEQ Idle and CARDTYPE zero. -/
theorem State.Inv.commitRequest (inv : s.Inv) (regs : ExchangeInv s.work) (ph : s.work.phase = .post) :
    (Machine.commitRequest s).Inv := by
  obtain ⟨rcount, rbits, rdata, -, -, -⟩ :=
    resultInv_exchangeFields (cause := (validateRequest s.work).2) inv.results regs (.inr ph)
  refine inv.commit ⟨rcount, rbits, rdata, ?_⟩
  cases (validateRequest s.work).1 <;> simp

/-- ANTICOLL never reports NoCardFound (R178 to R180). -/
theorem checkAnticoll_ne_noCardFound (w : WorkRegs) : (checkAnticoll w).1 ≠ .noCardFound := by
  unfold checkAnticoll
  split_ifs <;> exact nofun

/-- The results of an ANTICOLL (R181): a failure leaves SEQ Idle and UID zero. -/
theorem State.Inv.commitAnticoll (inv : s.Inv) (regs : ExchangeInv s.work) (ph : s.work.phase = .post) :
    (Machine.commitAnticoll s).Inv := by
  obtain ⟨rcount, rbits, rdata, -, -, -⟩ :=
    resultInv_exchangeFields (cause := (checkAnticoll s.work).2) inv.results regs (.inr ph)
  refine inv.commit ⟨rcount, rbits, rdata, ?_⟩
  have not_noCard := checkAnticoll_ne_noCardFound s.work
  revert not_noCard
  cases (checkAnticoll s.work).1 <;> simp

end Commit

/-! ## Every step keeps the invariant -/

section Step
variable {i : Instr} {s t : State}

/-- A legal payload length fits the five bits of WLEN. -/
theorem setWidth_payloadLength (l : Byte) (fits : l.toNat ≤ 16) :
    (l.setWidth 5).toNat = l.toNat ∧ (l.setWidth 5).setWidth 8 = l := by
  have wlen : (l.setWidth 5).toNat = l.toNat := (BitVec.toNat_setWidth 5 l).trans (Nat.mod_eq_of_lt (by omega))
  refine ⟨wlen, BitVec.eq_of_toNat_eq ?_⟩
  rw [BitVec.toNat_setWidth, wlen, Nat.mod_eq_of_lt l.isLt]

/-- The step that takes up an operation, from IDLE, its word being the one in OPW (R95). -/
theorem ExecStep.inv_of_idle (h : ExecStep i s t) (inv : s.Inv) (idle : s.work.phase = .idle)
    (not_busy : s.host.busy = false) (hd : decode s.params (opWord s.host) = .legal i) : t.Inv := by
  cases h with
  | @acceptExec _ _ cmd l _ hf fits =>
    obtain ⟨owns, -, form⟩ := ownsPhase_of_execForm hf
    obtain ⟨wlen, wlen_byte⟩ := setWidth_payloadLength l fits
    exact inv.accept rfl rfl nofun (latchedOk_beginExchange hd owns (by rwa [wlen_byte]) (wlen ▸ fits))
  | rejectLength => exact Machine.inv_of_idle inv.legal idle not_busy inv.results
  | acceptProtocol _ hp =>
    exact inv.accept rfl rfl nofun (latchedOk_noExchange rfl (by simp) hd (ownsPhase_of_isProtocol hp).1)
  | acceptMask _ hm =>
    exact inv.accept rfl rfl nofun (latchedOk_noExchange rfl (by simp) hd (ownsPhase_of_maskReg hm).1)
  | requestPre ph | anticollPre ph | exchangeExec ph | exchangeProtocol ph | commitExec ph | commitRequest ph
  | commitAnticoll ph | maskRead ph | setWrite ph | clearWrite ph | maskCommit ph => cases idle.symm.trans ph

/-- A step of the operation in flight, the one latched in OPL (R95). -/
theorem ExecStep.inv_of_inFlight (h : ExecStep i s t) (inv : s.Inv) (in_flight : s.work.phase ≠ .idle)
    (hd : decode s.params s.work.opl = .legal i) : t.Inv := by
  cases h with
  | acceptExec ph | rejectLength ph | acceptProtocol ph | acceptMask ph => exact absurd ph in_flight
  | requestPre _ hm =>
    obtain ⟨owns, form⟩ := ownsPhase_of_requestForm hm s.params
    exact inv.goOn rfl rfl in_flight nofun (latchedOk_beginExchange hd owns form (by decide))
  | anticollPre =>
    exact inv.goOn rfl rfl in_flight nofun (latchedOk_beginExchange hd (fun _ => rfl) rfl (by decide))
  | exchangeExec ph hf => exact inv.exchange ph hd (.inl rfl) (ownsPhase_of_execForm hf).2.1
  | exchangeProtocol ph hp => exact inv.exchange ph hd (.inr rfl) (ownsPhase_of_isProtocol hp).2.2
  | commitExec ph =>
    obtain ⟨-, -, regs⟩ := (latchedOk_end (.inl ph) hd).mp inv.latched
    exact inv.commit (resultInv_exchangeFields inv.results regs (.inl ph))
  | commitRequest ph =>
    obtain ⟨-, -, regs⟩ := (latchedOk_end (.inr ph) hd).mp inv.latched
    exact inv.commitRequest regs ph
  | commitAnticoll ph =>
    obtain ⟨-, -, regs⟩ := (latchedOk_end (.inr ph) hd).mp inv.latched
    exact inv.commitAnticoll regs ph
  | maskRead _ hm =>
    exact inv.goOn rfl rfl in_flight nofun (latchedOk_noExchange rfl (by simp) hd (ownsPhase_of_maskReg hm).2.1)
  | setWrite | clearWrite =>
    exact inv.goOn rfl rfl in_flight nofun (latchedOk_noExchange rfl (by simp) hd rfl)
  | maskCommit => exact inv.commit inv.results

/-- A store reaches OPW and PAYLOAD only (R36). -/
theorem storeHost_frame (off : Offset) (v : Byte) (h : HostRegs) :
    ∃ opw payload, storeHost off v h = { h with opw := opw, payload := payload } := by
  unfold storeHost
  dsimp only
  split_ifs <;> exact ⟨_, _, rfl⟩

/-- Whatever one move does keeps the invariant. -/
theorem MoveEffect.inv (h : MoveEffect s t) (inv : s.Inv) : t.Inv := by
  cases h with
  | nothing ht => rwa [ht]
  | cixStep in_flight hd he => exact (exec_step he).inv_of_inFlight inv in_flight hd
  | goAccept not_busy hd he =>
    exact (exec_step he).inv_of_idle inv (inv.idle_of_not_busy not_busy) not_busy hd
  | goReject not_busy _ ht =>
    rw [ht]
    exact inv_of_idle inv.legal (inv.idle_of_not_busy not_busy) not_busy inv.results
  | hostFault _ ht | hostRead ht => rw [ht]; exact inv
  | @hostStore off v not_busy ht =>
    obtain ⟨opw, payload, stored⟩ := storeHost_frame off v s.host
    rw [ht, stored]
    exact inv
  | reset ht => rw [ht]; exact inv_of_reset inv.legal rfl rfl

end Step

/-- Settles O42 by the rule for the reset state: the default parameters are legal. -/
theorem resetMeetsInvariant : Obligations.ResetMeetsInvariant := inv_of_reset (by decide) rfl rfl

/-- Settles O43: the invariant does not speak of the moves, and every effect of a move keeps it. -/
theorem everyStepKeepsInvariant : Obligations.EveryStepKeepsInvariant := by
  intro s t inv h
  obtain ⟨-, rest, -, effect⟩ := step_effect h
  have inv_rest : ({ s with moves := rest } : State).Inv := inv
  exact effect.inv inv_rest

end Sys2Proof.Machine
end

section
/-! Proofs about the PCD registers an operation accesses (spec/20_memory.md R61, R62): the register of each position of
the exchange, the one transaction a step of an operation can make, and whose register it is. -/

namespace Sys2Proof.Machine

/-- The PCD register that each position of the exchange accesses (spec/41_executor.md R122 to R136). -/
def XPos.reg : XPos → PcdReg
  | .enable => .comIEn
  | .irqRead | .irqWrite | .poll => .comIrq
  | .flushRead | .flushWrite | .level => .fifoLevel
  | .loadIdle | .start => .command
  | .push | .fetch => .fifoData
  | .sendRead | .sendWrite => .bitFraming
  | .error => .error
  | .control => .control

/-- No position of the exchange is at DivIrqReg. -/
theorem XPos.reg_ne_divIrq (p : XPos) : p.reg ≠ .divIrq := by
  cases p <;> exact nofun

/-- Each position of the exchange makes one transaction, at its own register, whichever way its choice falls. -/
theorem exchangeStep_txnAddr (after : Phase) (p : XPos) (s : State) :
    ∃ x, (exchangeStep after p s).trace = x :: s.trace ∧ txnAddr x = regAddr p.reg := by
  cases p with
  | start =>
    by_cases transceive : s.work.cmd = cmdTransceive
    · exact ⟨_, congrArg State.trace (xStart_transceive s transceive), rfl⟩
    · exact ⟨_, congrArg State.trace (xStart_other s transceive), rfl⟩
  | poll =>
    by_cases last : s.work.i - 1 = 0
    · exact ⟨_, congrArg State.trace (xPoll_timeout after s last), rfl⟩
    · cases completed : pollDone (pcdAnswer (regAddr .comIrq) s) s.work.waitirq with
      | true => exact ⟨_, congrArg State.trace (xPoll_done after s last completed), rfl⟩
      | false => exact ⟨_, congrArg State.trace (xPoll_again after s last completed), rfl⟩
  | enable | irqRead | irqWrite | flushRead | flushWrite | loadIdle | push | sendRead | sendWrite | error | level
  | control | fetch => exact ⟨_, rfl, rfl⟩

/-- The operations that own the phases of the exchange are those that run one. -/
theorem ownsPhase_xchg (i : Instr) (p : XPos) : ownsPhase i (.xchg p) = runsExchange i := by
  cases i <;> rfl

/-- An operation that runs an exchange has no register operand. -/
theorem maskReg_of_runsExchange {i : Instr} (hx : runsExchange i = true) : maskReg i = none := by
  cases i with
  | setBits | clearBits => cases hx
  | _ => rfl

/-- The registers that `i` may access: a bit-mask operation its own `reg` (R62), any other operation those of R61 but
DivIrqReg. -/
def NamedFor (i : Instr) (a : RegAddr) : Prop :=
  maskReg i = some a ∨ runsExchange i = true ∧ ∃ r, r ≠ PcdReg.divIrq ∧ a = regAddr r

/-- A position of the exchange makes its transaction at a register named for the operation that runs it. -/
theorem exchangeStep_namedFor {i : Instr} {p : XPos} (after : Phase) (s : State)
    (owns : ownsPhase i (.xchg p) = true) :
    ∃ x, (exchangeStep after p s).trace = x :: s.trace ∧ NamedFor i (txnAddr x) := by
  obtain ⟨x, trace, addr⟩ := exchangeStep_txnAddr after p s
  exact ⟨x, trace, .inr ⟨ownsPhase_xchg i p ▸ owns, p.reg, p.reg_ne_divIrq, addr⟩⟩

/-- A step of an operation makes no transaction, or one at a register named for it. -/
theorem ExecStep.trace_namedFor {i : Instr} {s t : State} (h : ExecStep i s t) :
    t.trace = s.trace ∨ ∃ x, t.trace = x :: s.trace ∧ NamedFor i (txnAddr x) := by
  cases h with
  | acceptExec | rejectLength | acceptProtocol | acceptMask | commitExec | commitRequest | commitAnticoll
  | maskCommit => exact .inl rfl
  | requestPre _ hm =>
    have runs := (ownsPhase_of_requestForm hm s.params).1 .enable
    exact .inr ⟨_, rfl, .inr ⟨ownsPhase_xchg i .enable ▸ runs, .bitFraming, nofun, rfl⟩⟩
  | anticollPre => exact .inr ⟨_, rfl, .inr ⟨rfl, .bitFraming, nofun, rfl⟩⟩
  | exchangeExec _ hf => exact .inr (exchangeStep_namedFor _ s ((ownsPhase_of_execForm hf).1 _))
  | exchangeProtocol _ hp => exact .inr (exchangeStep_namedFor _ s ((ownsPhase_of_isProtocol hp).2.1 _))
  | maskRead _ hm => exact .inr ⟨_, rfl, .inl hm⟩
  | setWrite | clearWrite => exact .inr ⟨_, rfl, .inl rfl⟩

/-- What `NamedFor` says of an exchange operation: the eight addresses of R61. -/
theorem NamedFor.mem_of_runsExchange {i : Instr} {a : RegAddr} (named : NamedFor i a) (hx : runsExchange i = true) :
    a ∈ ([0x01, 0x02, 0x04, 0x06, 0x09, 0x0A, 0x0C, 0x0D] : List RegAddr) := by
  obtain own | ⟨-, r, not_divIrq, rfl⟩ := named
  · cases (maskReg_of_runsExchange hx).symm.trans own
  · cases r with
    | divIrq => exact absurd rfl not_divIrq
    | command | comIEn | comIrq | error | fifoData | fifoLevel | control | bitFraming => decide

/-- What `NamedFor` says of a bit-mask operation: its own register (R62). -/
theorem NamedFor.eq_of_maskReg {i : Instr} {a reg : RegAddr} (named : NamedFor i a) (hm : maskReg i = some reg) :
    a = reg := by
  obtain own | ⟨hx, -⟩ := named
  · exact Option.some.inj (own.symm.trans hm)
  · cases (maskReg_of_runsExchange hx).symm.trans hm

/-- Settles O41: the step's new transaction is the one of `ExecStep.trace_namedFor`. -/
theorem onlyNamedPcdRegistersAccessed : Obligations.OnlyNamedPcdRegistersAccessed := by
  intro i s t x h trace
  have named : NamedFor i (txnAddr x) := by
    obtain same | ⟨y, trace_y, named⟩ := (exec_step h).trace_namedFor
    · exact absurd (trace.symm.trans same) (List.cons_ne_self x s.trace)
    · rwa [List.head_eq_of_cons_eq (trace.symm.trans trace_y)]
  refine ⟨named.mem_of_runsExchange, fun reg m mask => named.eq_of_maskReg ?_⟩
  obtain rfl | rfl := mask <;> rfl

end Sys2Proof.Machine
end

section
/-! Proofs about the operation word (spec/30_encoding.md): the decoder line by line, each line in both directions, and
the two round trips. -/

namespace Sys2Proof

/-! ## The lines of the decoder -/

/-- The lines of R92 for a word whose reserved fields are zero, by its OP. -/
def decodeLine (p : Params) (op : BitVec 4) (a b : Byte) : Decoded :=
  if op = opExec then decodeExec p a b
  else if op = opRequest then decodeRequest a b
  else if op = opAnticoll then decodeAnticoll a b
  else if op = opSetBits then decodeMask .setBits a b
  else if op = opClearBits then decodeMask .clearBits a b
  else .illegal .reservedOp

theorem decode_of_reservedHigh {p : Params} {w : Word} (high : wordZ2 w ≠ 0) :
    decode p w = .illegal .reservedHigh :=
  if_pos high

theorem decode_of_reservedLow {p : Params} {w : Word} (high : wordZ2 w = 0) (low : wordZ1 w ≠ 0) :
    decode p w = .illegal .reservedLow :=
  (if_neg (not_not.mpr high)).trans (if_pos low)

theorem decode_of_reserved_zero {p : Params} {w : Word} (high : wordZ2 w = 0) (low : wordZ1 w = 0) :
    decode p w = decodeLine p (wordOp w) (wordA w) (wordB w) :=
  (if_neg (not_not.mpr high)).trans (if_neg (not_not.mpr low))

theorem decode_encodeFields (p : Params) (op : BitVec 4) (a b : Byte) :
    decode p (encodeFields op a b) = decodeLine p op a b := by
  rw [decode_of_reserved_zero (wordZ2_encodeFields op a b) (wordZ1_encodeFields op a b), wordOp_encodeFields,
    wordA_encodeFields, wordB_encodeFields]

/-- A word that decodes has zeros in its reserved fields, so that its line alone decides. -/
theorem decode_eq_legal_iff {p : Params} {w : Word} {i : Instr} :
    decode p w = .legal i ↔
      wordZ2 w = 0 ∧ wordZ1 w = 0 ∧ decodeLine p (wordOp w) (wordA w) (wordB w) = .legal i := by
  by_cases high : wordZ2 w = 0
  · by_cases low : wordZ1 w = 0
    · simp only [decode_of_reserved_zero high low, high, low, true_and]
    · rw [decode_of_reservedLow high low]
      exact iff_of_false nofun fun h => low h.2.1
  · rw [decode_of_reservedHigh high]
    exact iff_of_false nofun fun h => high h.1

/-- A word is ILLEGAL for its reserved fields (R93 (a), (b)) or for its line. -/
theorem decode_illegal_iff {p : Params} {w : Word} :
    (∃ why, decode p w = .illegal why) ↔
      wordZ2 w ≠ 0 ∨ wordZ1 w ≠ 0 ∨ ∃ why, decodeLine p (wordOp w) (wordA w) (wordB w) = .illegal why := by
  by_cases high : wordZ2 w = 0
  · by_cases low : wordZ1 w = 0
    · simp only [decode_of_reserved_zero high low, high, low, ne_eq, not_true_eq_false, false_or]
    · exact iff_of_true ⟨_, decode_of_reservedLow high low⟩ (.inr (.inl low))
  · exact iff_of_true ⟨_, decode_of_reservedHigh high⟩ (.inl high)

/-! ## The EXEC line -/

/-- An EXEC variant's word has its command code and its length as A and B (R96). -/
theorem encode_of_execForm {p : Params} {i : Instr} {cmd l : Byte} (form : Machine.execForm p i = some (cmd, l)) :
    encode p i = encodeFields opExec cmd l := by
  cases i with
  | idle | transceive | authent | softReset | receive | transmit | calcCrc => cases form; rfl
  | reqIdl | reqAll | anticoll | setBits | clearBits => cases form

/-- An EXEC variant is well formed by its length (R86). -/
theorem wellFormed_of_execForm {p : Params} {i : Instr} {cmd l : Byte}
    (form : Machine.execForm p i = some (cmd, l)) : i.wellFormed = true ↔ l.toNat ≤ 16 := by
  cases i with
  | idle | transceive | authent | softReset | receive | transmit | calcCrc => cases form; exact decide_eq_true_iff
  | reqIdl | reqAll | anticoll | setBits | clearBits => cases form

/-- The EXEC line finds a variant by its command code: R8's condition keeps the seven codes apart. -/
theorem decodeExec_of_execForm {p : Params} {i : Instr} {cmd l : Byte} (legal : p.legal = true)
    (form : Machine.execForm p i = some (cmd, l)) (fits : l.toNat ≤ 16) : decodeExec p cmd l = .legal i := by
  have not_long : ¬ Config.maxLen < l.toNat := Nat.not_lt.mpr fits
  obtain ⟨receive_ne_transmit, receive_ne_calcCrc, transmit_ne_calcCrc, not_fixed⟩ := p.legal_iff.mp legal
  have code_ne : ∀ c ∈ [p.cmdReceive, p.cmdTransmit, p.cmdCalcCrc],
      c ≠ cmdIdle ∧ c ≠ cmdTransceive ∧ c ≠ cmdAuthent ∧ c ≠ cmdSoftReset := fun c hc =>
    ⟨(not_fixed c hc _ (by decide)).symm, (not_fixed c hc _ (by decide)).symm, (not_fixed c hc _ (by decide)).symm,
      (not_fixed c hc _ (by decide)).symm⟩
  unfold decodeExec
  rw [if_neg not_long]
  cases i with
  | idle | transceive | authent | softReset => cases form; rfl
  | receive => cases form; simp [code_ne]
  | transmit => cases form; simp [code_ne, receive_ne_transmit.symm]
  | calcCrc => cases form; simp [code_ne, receive_ne_calcCrc.symm, transmit_ne_calcCrc.symm]
  | reqIdl | reqAll | anticoll | setBits | clearBits => cases form

/-- What the EXEC line accepts: an EXEC variant with this command code and length, within R86's bound. -/
theorem execForm_of_decodeExec {p : Params} {a b : Byte} {i : Instr} (h : decodeExec p a b = .legal i) :
    Machine.execForm p i = some (a, b) ∧ b.toNat ≤ 16 := by
  unfold decodeExec at h
  split_ifs at h with long code code code code code code code <;> cases h <;> subst code <;>
    exact ⟨rfl, Nat.not_lt.mp long⟩

/-- What the EXEC line rejects: R93 (d) and (e). -/
theorem decodeExec_illegal_iff {p : Params} {a b : Byte} :
    (∃ why, decodeExec p a b = .illegal why) ↔
      a ∉ [0x00, 0x0C, 0x0E, 0x0F, p.cmdReceive, p.cmdTransmit, p.cmdCalcCrc] ∨ 16 < b.toNat := by
  by_cases long : 16 < b.toNat
  · exact iff_of_true ⟨.badLength, if_pos long⟩ (.inr long)
  · have fits : ¬ Config.maxLen < b.toNat := long
    change _ ↔ a ∉ [cmdIdle, cmdTransceive, cmdAuthent, cmdSoftReset, _, _, _] ∨ _
    simp only [decodeExec, if_neg fits, long, or_false, List.mem_cons, List.not_mem_nil, not_or]
    split_ifs <;> simp [*]

/-! ## The REQUEST, ANTICOLL and bit-mask lines -/

/-- What the REQUEST line rejects: R93 (f). -/
theorem decodeRequest_illegal_iff {a b : Byte} :
    (∃ why, decodeRequest a b = .illegal why) ↔ (a ≠ 0x26 ∧ a ≠ 0x52) ∨ b ≠ 0 := by
  change _ ↔ (a ≠ modeReqIdl ∧ a ≠ modeReqAll) ∨ _
  unfold decodeRequest
  split_ifs with no_b mode mode
  · exact iff_of_true ⟨_, rfl⟩ (.inr no_b)
  · exact iff_of_false nofun (by simp [mode, not_not.mp no_b])
  · exact iff_of_false nofun (by simp [mode, not_not.mp no_b])
  · exact iff_of_true ⟨_, rfl⟩ (.inl ⟨‹_›, mode⟩)

/-- What the REQUEST line accepts. -/
theorem encode_of_decodeRequest {p : Params} {a b : Byte} {i : Instr} (h : decodeRequest a b = .legal i) :
    i.wellFormed = true ∧ encode p i = encodeFields opRequest a b := by
  unfold decodeRequest at h
  split_ifs at h with no_b mode mode <;> cases h <;> subst mode <;> rw [not_not.mp no_b] <;> exact ⟨rfl, rfl⟩

/-- What the ANTICOLL line rejects: R93 (g). -/
theorem decodeAnticoll_illegal_iff {a b : Byte} :
    (∃ why, decodeAnticoll a b = .illegal why) ↔ a ≠ 0 ∨ b ≠ 0 := by
  unfold decodeAnticoll
  rw [← not_and_or]
  split_ifs with zero
  · exact iff_of_false nofun (not_not.mpr zero)
  · exact iff_of_true ⟨_, rfl⟩ zero

/-- What the ANTICOLL line accepts. -/
theorem encode_of_decodeAnticoll {p : Params} {a b : Byte} {i : Instr} (h : decodeAnticoll a b = .legal i) :
    i.wellFormed = true ∧ encode p i = encodeFields opAnticoll a b := by
  unfold decodeAnticoll at h
  split_ifs at h with zero
  cases h
  rw [zero.1, zero.2]
  exact ⟨rfl, rfl⟩

/-- What the bit-mask lines reject: R93 (h). -/
theorem decodeMask_illegal_iff {make : RegAddr → Byte → Instr} {a b : Byte} :
    (∃ why, decodeMask make a b = .illegal why) ↔ a.extractLsb' 6 2 ≠ 0 := by
  unfold decodeMask
  split_ifs with high
  · exact iff_of_false nofun (not_not.mpr high)
  · exact iff_of_true ⟨_, rfl⟩ high

/-- A register address put into A reads back (R88). -/
theorem decodeMask_append (make : RegAddr → Byte → Instr) (reg : RegAddr) (m : Byte) :
    decodeMask make ((0 : BitVec 2) ++ reg) m = .legal (make reg m) := by
  obtain ⟨high, low⟩ := maskOperand_fields reg
  rw [decodeMask, if_pos high, low]

/-- An A with A[7:6] = 0 is its low six bits (R88). -/
theorem append_low_of_high_zero {a : Byte} (high : a.extractLsb' 6 2 = 0) :
    (0 : BitVec 2) ++ a.extractLsb' 0 6 = a := by
  revert a; decide

/-- What the bit-mask lines accept. -/
theorem eq_of_decodeMask {make : RegAddr → Byte → Instr} {a b : Byte} {i : Instr}
    (h : decodeMask make a b = .legal i) : ∃ reg, a = (0 : BitVec 2) ++ reg ∧ i = make reg b := by
  unfold decodeMask at h
  split_ifs at h with high
  cases h
  exact ⟨_, (append_low_of_high_zero high).symm, rfl⟩

/-! ## The round trips -/

/-- Settles O2: the word's OP picks the line of its own row, and the line finds the operation again. -/
theorem decodeEncodeRoundTrip : Obligations.DecodeEncodeRoundTrip := by
  intro p i legal wf
  cases i with
  | idle | transceive | authent | softReset | receive | transmit | calcCrc =>
    rw [encode_of_execForm rfl, decode_encodeFields]
    exact decodeExec_of_execForm legal rfl ((wellFormed_of_execForm (p := p) rfl).mp wf)
  | reqIdl | reqAll | anticoll => exact decode_encodeFields p _ _ _
  | setBits reg m | clearBits reg m => exact (decode_encodeFields p _ _ _).trans (decodeMask_append _ reg m)

/-- Whatever a line accepts is well formed, and its row of R96 has the line's fields. -/
theorem encode_of_decodeLine {p : Params} {op : BitVec 4} {a b : Byte} {i : Instr}
    (h : decodeLine p op a b = .legal i) : i.wellFormed = true ∧ encode p i = encodeFields op a b := by
  unfold decodeLine at h
  split_ifs at h with line line line line line <;> subst line
  · obtain ⟨form, fits⟩ := execForm_of_decodeExec h
    exact ⟨(wellFormed_of_execForm form).mpr fits, encode_of_execForm form⟩
  · exact encode_of_decodeRequest h
  · exact encode_of_decodeAnticoll h
  · obtain ⟨reg, rfl, rfl⟩ := eq_of_decodeMask h
    exact ⟨rfl, rfl⟩
  · obtain ⟨reg, rfl, rfl⟩ := eq_of_decodeMask h
    exact ⟨rfl, rfl⟩

/-- Settles O3: the line fixes OP, A and B, and a word that decodes has nothing else. -/
theorem encodeDecodeRoundTrip : Obligations.EncodeDecodeRoundTrip := by
  intro p w i h
  obtain ⟨high, low, line⟩ := decode_eq_legal_iff.mp h
  obtain ⟨wf, fields⟩ := encode_of_decodeLine line
  exact ⟨wf, fields.trans (encodeFields_of_fields w low high)⟩

/-- Settles O1 by the round trip: each of the twelve legal words is the encoding of its operation. -/
theorem specWordsDecode : Obligations.SpecWordsDecode := by
  have word_of (i : Instr) (wf : i.wellFormed = true) := decodeEncodeRoundTrip defaultParams i (by decide) wf
  exact ⟨word_of (.idle 0) rfl, word_of (.transceive 16) rfl, word_of (.authent 3) rfl, word_of (.softReset 0) rfl,
    word_of (.receive 1) rfl, word_of (.transmit 2) rfl, word_of (.calcCrc 5) rfl, word_of .reqIdl rfl,
    word_of .reqAll rfl, word_of .anticoll rfl, word_of (.setBits 0x3F 0xFF) rfl, word_of (.clearBits 0x04 0x80) rfl,
    by decide, by decide⟩

/-! ## The illegal words -/

/-- The five values of OP that R82 gives a line, and the others. -/
theorem op_cases (op : BitVec 4) :
    op = opExec ∨ op = opRequest ∨ op = opAnticoll ∨ op = opSetBits ∨ op = opClearBits
      ∨ (op ≠ 1 ∧ op ≠ 2 ∧ op ≠ 3 ∧ op ≠ 4 ∧ op ≠ 5) := by
  revert op; decide

/-- What the lines of the decoder reject: R93 (c) to (h). -/
theorem decodeLine_illegal_iff {p : Params} {op : BitVec 4} {a b : Byte} :
    (∃ why, decodeLine p op a b = .illegal why) ↔
      (op ≠ 1 ∧ op ≠ 2 ∧ op ≠ 3 ∧ op ≠ 4 ∧ op ≠ 5)
        ∨ (op = 1 ∧ a ∉ [0x00, 0x0C, 0x0E, 0x0F, p.cmdReceive, p.cmdTransmit, p.cmdCalcCrc])
        ∨ (op = 1 ∧ 16 < b.toNat)
        ∨ (op = 2 ∧ ((a ≠ 0x26 ∧ a ≠ 0x52) ∨ b ≠ 0))
        ∨ (op = 3 ∧ (a ≠ 0 ∨ b ≠ 0))
        ∨ ((op = 4 ∨ op = 5) ∧ a.extractLsb' 6 2 ≠ 0) := by
  obtain rfl | rfl | rfl | rfl | rfl | reserved := op_cases op
  · exact decodeExec_illegal_iff.trans (by simp [opExec])
  · exact decodeRequest_illegal_iff.trans (by simp [opRequest])
  · exact decodeAnticoll_illegal_iff.trans (by simp [opAnticoll])
  · exact decodeMask_illegal_iff.trans (by simp [opSetBits])
  · exact decodeMask_illegal_iff.trans (by simp [opClearBits])
  · refine iff_of_true ⟨.reservedOp, ?_⟩ (.inl reserved)
    obtain ⟨not_exec, not_request, not_anticoll, not_setBits, not_clearBits⟩ := reserved
    simp only [decodeLine, opExec, opRequest, opAnticoll, opSetBits, opClearBits, not_exec, not_request, not_anticoll,
      not_setBits, not_clearBits, if_false]

end Sys2Proof
end

section
/-! Proofs about the GO, the acceptance of an operation and the steps of CIX (spec/30_encoding.md R95). -/

namespace Sys2Proof.Machine

/-! ## The GO -/

theorem go_of_legal {s : State} {i : Instr} (hd : decode s.params (opWord s.host) = .legal i) : go s = exec i s := by
  simp only [go, hd]

theorem go_of_illegal {s : State} {why : IllegalWord} (hd : decode s.params (opWord s.host) = .illegal why) :
    go s = .next (illegalOperation s) := by
  simp only [go, hd]

/-- A write to CTRL with bit 0 set and BUSY = 0 is a GO (R31). -/
theorem step_of_go {s : State} {v : Byte} {rest : List Move} (legal : s.params.legal = true)
    (next_move : s.moves = .write 0x10 v :: rest) (bit_set : v.getLsbD 0 = true) (not_busy : s.host.busy = false) :
    step s = go { s with moves := rest } :=
  (step_of_write legal next_move).trans (hostWrite_go v { s with moves := rest } not_busy bit_set)

/-- Settles O15: the write is a GO, and the word in OPW is the one decoded. -/
theorem stepRunsIssuedWord : Obligations.StepRunsIssuedWord := by
  intro s v rest i legal next_move bit_set not_busy hd
  exact (step_of_go legal next_move bit_set not_busy).trans (go_of_legal hd)

/-- Settles O4: the cases of R93 line by line, and the GO of such a word, which is `illegalOperation`. -/
theorem reservedWordsAreRejected : Obligations.ReservedWordsAreRejected := by
  refine ⟨fun p w => ?_, fun s v rest why legal next_move bit_set not_busy hd => ?_, by decide, fun p =>
    ⟨.reservedOp, rfl⟩⟩
  · exact decode_illegal_iff.trans (or_congr_right (or_congr_right decodeLine_illegal_iff))
  · exact ⟨_, (step_of_go legal next_move bit_set not_busy).trans (go_of_illegal hd), rfl, rfl⟩

/-- Putting an encoded word in place issues that word (log 16). -/
theorem withFetchWord_toNat (s : State) (w : Word) : s.withFetchWord 32 w.toNat = issueWord w s := by
  rw [State.withFetchWord, Nat.mod_eq_of_lt w.isLt, BitVec.ofNat_toNat, BitVec.setWidth_eq]

theorem opWord_issueWord (w : Word) (s : State) : opWord (issueWord w s).host = w :=
  opWord_opwOfWord { s.host with busy := false } w

/-- Settles O18: OPW holds the operation's word, the next move is its GO, and the word decodes to the operation. -/
theorem placedWordRunsNext : Obligations.PlacedWordRunsNext := by
  intro s i legal wf
  rw [withFetchWord_toNat]
  have decodes : decode s.params (opWord (issueWord (encode s.params i) s).host) = .legal i := by
    rw [opWord_issueWord]
    exact decodeEncodeRoundTrip s.params i legal wf
  exact stepRunsIssuedWord (issueWord (encode s.params i) s) 0x01 s.moves i legal rfl (by decide) rfl decodes

/-! ## Acceptance -/

/-- An EXEC variant runs the exchange of its command code and length (R139 to R146). -/
theorem exec_of_execForm {i : Instr} {s : State} {cmd l : Byte} (form : execForm s.params i = some (cmd, l)) :
    exec i s = execExchange cmd l s := by
  cases i with
  | idle | transceive | authent | softReset | receive | transmit | calcCrc => cases form; rfl
  | reqIdl | reqAll | anticoll | setBits | clearBits => cases form

section Idle
variable {s : State} (idle : s.work.phase = .idle)
include idle

theorem execExchange_of_idle (cmd l : Byte) :
    execExchange cmd l s = .next (if l.toNat ≤ Config.maxLen then acceptExec cmd l s else illegalOperation s) := by
  simp only [execExchange, idle]

theorem execRequest_of_idle (mode : Byte) : execRequest mode s = .next (accept .protoPre s) := by
  simp only [execRequest, idle]

theorem execAnticoll_of_idle : execAnticoll s = .next (accept .protoPre s) := by
  simp only [execAnticoll, idle]

theorem execRmw_of_idle (reg : RegAddr) (write : State → State) :
    execRmw reg write s = .next (accept .rmwRead s) := by
  simp only [execRmw, idle]

end Idle

/-- Settles O19: the variant accepts as `acceptExec` does, whose payload loop is `byteAt_latchPayload`. -/
theorem execAcceptance : Obligations.ExecAcceptance := by
  intro s i cmd l form fits idle
  refine ⟨latchPayload s.host.payload s.work.wpay l.toNat, fun k hk => ?_, ?_⟩
  · simp only [byteAt_latchPayload, hk, and_true]
  · rw [exec_of_execForm form, execExchange_of_idle idle, if_pos (show l.toNat ≤ Config.maxLen from fits)]
    rfl

/-- Settles O21: the length is above the bound of R86. -/
theorem overlongExecRejected : Obligations.OverlongExecRejected := by
  intro s i cmd l form long idle
  rw [exec_of_execForm form, execExchange_of_idle idle, if_neg (show ¬ l.toNat ≤ Config.maxLen from Nat.not_le.mpr long)]
  rfl

/-- Settles O20: acceptance is `accept`, by the rule for each shape of operation in IDLE. -/
theorem protocolAndMaskAcceptance : Obligations.ProtocolAndMaskAcceptance := by
  intro s idle
  simp only [List.forall_mem_cons, List.not_mem_nil, false_implies, implies_true, and_true]
  exact ⟨⟨execRequest_of_idle idle _, execRequest_of_idle idle _, execAnticoll_of_idle idle⟩,
    fun reg m => ⟨execRmw_of_idle idle reg _, execRmw_of_idle idle reg _⟩⟩

/-! ## The steps of CIX -/

/-- A step of CIX in mid-operation performs the operation latched in OPL (R95). -/
theorem cixMove_of_inFlight {s : State} {i : Instr} (in_flight : s.work.phase ≠ .idle)
    (hd : decode s.params s.work.opl = .legal i) : cixMove s = exec i s := by
  simp only [cixMove, if_neg in_flight, hd]

section Moves
variable {s : State} {rest : List Move} (legal : s.params.legal = true)
include legal

theorem step_of_noMove (no_move : s.moves = []) : step s = cixMove s := by
  simp only [step, stepOf, if_pos legal, oneMove, no_move]

theorem step_of_cix (next_move : s.moves = .cix :: rest) : step s = cixMove { s with moves := rest } := by
  simp only [step, stepOf, if_pos legal, oneMove, next_move]

/-- WAITDONE lets CIX act while BUSY is set, and else notes the read of STATUS (log 6). -/
theorem step_of_waitDone (next_move : s.moves = .waitDone :: rest) :
    step s = if s.host.busy then cixMove s else .next (noteRead offStatus { s with moves := rest }) := by
  simp only [step, stepOf, if_pos legal, oneMove, next_move]

end Moves

/-- Settles O16: each of the three moves gives the step to CIX. -/
theorem stepContinuesLatchedOperation : Obligations.StepContinuesLatchedOperation := by
  intro s i legal in_flight hd
  have acts : cixMove s = exec i s := cixMove_of_inFlight in_flight hd
  refine ⟨fun no_move => (step_of_noMove legal no_move).trans acts, fun rest next_move => ?_,
    fun rest next_move busy => ?_⟩
  · exact (step_of_cix legal next_move).trans (cixMove_of_inFlight in_flight hd)
  · exact ((step_of_waitDone legal next_move).trans (if_pos busy)).trans acts

end Sys2Proof.Machine
end

section
/-! Proofs about the assembler's lines (spec/30_encoding.md R97, R98): the word of each, and the host sequence that puts
it in OPW. -/

namespace Sys2Proof.Machine

/-! ## The host sequence of a word -/

/-- A line that has a word stands for the moves that issue it (R97). -/
theorem hostSequence_of_assemble {p : Params} {line : AsmLine} {w : Word} (has_word : assemble p line = some w) :
    hostSequence p line = issueMoves w := by
  cases line with
  | ldpay | waitDone => cases has_word
  | _ => cases has_word; rfl

/-- The store of a host write to OPWk (R36). -/
theorem step_of_write_opw {s : State} {v : Byte} {rest : List Move} (k : Nat) (hk : k < 4)
    (legal : s.params.legal = true) (not_busy : s.host.busy = false)
    (next_move : s.moves = .write (offOpw k) v :: rest) :
    step s = .next { s with host := { s.host with opw := setByte s.host.opw k v }, moves := rest } := by
  have at_k : (offOpw k).toNat = 0x0C + k := Nat.mod_eq_of_lt (by omega)
  have writable : hostWritable (offOpw k) = true := by rw [hostWritable_iff]; omega
  have not_ctrl : offOpw k ≠ 0x10 := fun h => by
    have : (offOpw k).toNat = 0x10 := congrArg BitVec.toNat h
    omega
  rw [step_of_write legal next_move, hostWrite_store _ v { s with moves := rest } writable not_busy not_ctrl,
    storeHost_opw _ _ v (by omega) (by omega), at_k, Nat.add_sub_cancel_left]

/-- Four stores fill OPW. -/
theorem opWord_setByte_all (h : HostRegs) (opw : Vector Byte 4) (b0 b1 b2 b3 : Byte) :
    opWord { h with opw := setByte (setByte (setByte (setByte opw 0 b0) 1 b1) 2 b2) 3 b3 }
      = wordOfBytes b0 b1 b2 b3 := by
  simp [opWord, byteAt_setByte]

/-- The first four moves that issue a word store it in OPW and change nothing else; the GO is next. -/
theorem run_issueMoves {s : State} {w : Word} {rest : List Move} (legal : s.params.legal = true)
    (not_busy : s.host.busy = false) (moves : s.moves = issueMoves w ++ rest) :
    ∃ opw, run 4 s = .next { s with host := { s.host with opw := opw }, moves := .write 0x10 0x01 :: rest }
      ∧ opWord { s.host with opw := opw } = w := by
  refine ⟨_, ?_, (opWord_setByte_all s.host s.host.opw _ _ _ _).trans (wordOfBytes_bytes w)⟩
  calc run 4 s
    _ = run 3 _ := run_succ (step_of_write_opw 0 (by omega) legal not_busy moves)
    _ = run 2 _ := run_succ (step_of_write_opw 1 (by omega) legal not_busy rfl)
    _ = run 1 _ := run_succ (step_of_write_opw 2 (by omega) legal not_busy rfl)
    _ = run 0 _ := run_succ (step_of_write_opw 3 (by omega) legal not_busy rfl)

/-! ## The operands of a line -/

/-- The command codes of R85 and the parameters of R8. -/
theorem asmCmd_eq {p : Params} {c : AsmCmd} {a : Byte}
    (named : (c, a) ∈ [(.idle, 0x00), (.transceive, 0x0C), (.authent, 0x0E), (.softReset, 0x0F),
      (.receive, p.cmdReceive), (.transmit, p.cmdTransmit), (.calcCrc, p.cmdCalcCrc)] ∨ c = .number a) :
    asmCmd p c = a := by
  simp only [List.mem_cons, List.not_mem_nil, or_false, Prod.mk.injEq] at named
  obtain (⟨rfl, rfl⟩ | ⟨rfl, rfl⟩ | ⟨rfl, rfl⟩ | ⟨rfl, rfl⟩ | ⟨rfl, rfl⟩ | ⟨rfl, rfl⟩ | ⟨rfl, rfl⟩) | rfl := named <;> rfl

/-- The mode bytes of R87. -/
theorem asmMode_eq {c : AsmMode} {a : Byte}
    (named : (c, a) ∈ [(.reqIdl, 0x26), (.reqAll, 0x52)] ∨ c = .number a) : asmMode c = a := by
  simp only [List.mem_cons, List.not_mem_nil, or_false, Prod.mk.injEq] at named
  obtain (⟨rfl, rfl⟩ | ⟨rfl, rfl⟩) | rfl := named <;> rfl

/-- The register addresses of R61. -/
theorem asmReg_eq {r : AsmReg} {a : RegAddr}
    (named : (r, a) ∈ [(.name .command, 0x01), (.name .comIEn, 0x02), (.name .comIrq, 0x04), (.name .divIrq, 0x05),
      (.name .error, 0x06), (.name .fifoData, 0x09), (.name .fifoLevel, 0x0A), (.name .control, 0x0C),
      (.name .bitFraming, 0x0D)] ∨ r = .number a) : asmReg r = a.setWidth 8 := by
  simp only [List.mem_cons, List.not_mem_nil, or_false, Prod.mk.injEq] at named
  obtain (⟨rfl, rfl⟩ | ⟨rfl, rfl⟩ | ⟨rfl, rfl⟩ | ⟨rfl, rfl⟩ | ⟨rfl, rfl⟩ | ⟨rfl, rfl⟩ | ⟨rfl, rfl⟩ | ⟨rfl, rfl⟩
    | ⟨rfl, rfl⟩) | rfl := named <;> rfl

/-- Settles O48: the moves of a line with a word by `run_issueMoves`, the words by the operands' codes. -/
theorem assembledLineIssuesItsWord : Obligations.AssembledLineIssuesItsWord := by
  refine ⟨fun s line w rest legal not_busy has_word moves => ?_, fun p => ?_, fun s rest legal moves not_busy => ?_⟩
  · rw [hostSequence_of_assemble has_word] at moves
    obtain ⟨opw, ran, word⟩ := run_issueMoves legal not_busy moves
    exact ⟨_, ran, word, rfl, rfl, rfl, rfl⟩
  · refine ⟨fun c a l named => ?_, fun c a named => ?_, rfl, fun r a m named => ?_, rfl, rfl, rfl, rfl,
      fun l => ⟨rfl, rfl⟩, fun k b => rfl⟩
    · rw [assemble, asmCmd_eq named]; rfl
    · rw [assemble, asmMode_eq named]; rfl
    · rw [assemble, assemble, asmReg_eq named]; exact ⟨rfl, rfl⟩
  · exact (step_of_waitDone legal moves).trans (if_neg (by simp [not_busy]))

end Sys2Proof.Machine
end

section
/-! Proofs about SETBITS and CLEARBITS (spec/40_bitmask.md R110 to R113): one rule per step, and the run from the
acceptance to the commit. -/

namespace Sys2Proof.Machine

/-! ## The steps after acceptance -/

section Steps
variable {s : State} (reg : RegAddr) (write : State → State)

theorem execRmw_of_rmwRead (ph : s.work.phase = .rmwRead) :
    execRmw reg write s = .next (setPhase .rmwWrite (rmwRead reg s)) := by
  simp only [execRmw, ph]

theorem execRmw_of_rmwWrite (ph : s.work.phase = .rmwWrite) :
    execRmw reg write s = .next (setPhase .rmwEnd (write s)) := by
  simp only [execRmw, ph]

theorem execRmw_of_rmwEnd (ph : s.work.phase = .rmwEnd) : execRmw reg write s = .next (commit s.host s) := by
  simp only [execRmw, ph]

end Steps

/-- Settles O39: `execRmw` has a rule for each phase, and only the value that the second step writes depends on the
operation. -/
theorem maskOperationSteps : Obligations.MaskOperationSteps := by
  intro s reg m
  simp only [List.forall_mem_cons, List.not_mem_nil, false_implies, implies_true, and_true]
  refine ⟨⟨execRmw_of_rmwRead reg _, fun ph => ?_, execRmw_of_rmwEnd reg _⟩,
    execRmw_of_rmwRead reg _, fun ph => ?_, execRmw_of_rmwEnd reg _⟩
  · exact ⟨s.work.t ||| m, fun _ => rfl, nofun, execRmw_of_rmwWrite reg _ ph⟩
  · exact ⟨s.work.t &&& ~~~m, nofun, fun _ => rfl, execRmw_of_rmwWrite reg _ ph⟩

/-! ## The whole run -/

/-- The run of an operation of the shape that R112 and R113 share, which writes back `value T` for the byte T it read. -/
theorem runOp_of_execRmw {i : Instr} {reg : RegAddr} {value : Byte → Byte}
    (shape : ∀ s, exec i s = execRmw reg (fun u => memWrite reg (value u.work.t) u) s)
    {s : State} (idle : s.work.phase = .idle) :
    runOp i 4 s = .next { s with
      host := { s.host with busy := false, done := true, ill := false }
      work := { s.work with opl := opWord s.host, t := pcdAnswer reg s, phase := .idle }
      answers := s.answers.tail
      trace := .wr s.params.busAddr reg (value (pcdAnswer reg s)) :: .rd s.params.busAddr reg (pcdAnswer reg s)
        :: s.trace } :=
  calc runOp i 4 s
    _ = runOp i 3 _ := runOp_succ ((shape _).trans (execRmw_of_idle idle reg _))
    _ = runOp i 2 _ := runOp_succ ((shape _).trans (execRmw_of_rmwRead reg _ rfl))
    _ = runOp i 1 _ := runOp_succ ((shape _).trans (execRmw_of_rmwWrite reg _ rfl))
    _ = runOp i 0 _ := runOp_succ ((shape _).trans (execRmw_of_rmwEnd reg _ rfl))

/-- Settles O38: both operations have the shape of `execRmw`; one sets the mask's bits in the byte read, the other clears
them. -/
theorem maskOperationsReadModifyWrite : Obligations.MaskOperationsReadModifyWrite := fun s reg m idle =>
  ⟨pcdAnswer reg s, rfl,
    runOp_of_execRmw (i := .setBits reg m) (value := (· ||| m)) (fun _ => rfl) idle,
    runOp_of_execRmw (i := .clearBits reg m) (value := (· &&& ~~~m)) (fun _ => rfl) idle⟩

end Sys2Proof.Machine
end

section
/-! Proofs about one step of the exchange at the positions that decide something (spec/41_executor.md R127 to R135), and
about EXEC's commit (R138). -/

namespace Sys2Proof.Machine

/-! ## The poll and the error check -/

/-- Bit 0 of a byte, as a mask finds it (R127, R132). -/
theorem and_timerBit_ne_zero_iff (n : Byte) : n &&& timerBit ≠ 0 ↔ n.getLsbD 0 = true := by
  revert n; decide

/-- A read of ComIrqReg shows completion by the timer bit or by a bit of WAITIRQ (R127). -/
theorem pollDone_iff (n waitirq : Byte) : pollDone n waitirq = true ↔ n.getLsbD 0 = true ∨ n &&& waitirq ≠ 0 := by
  simp only [pollDone, Bool.or_eq_true, bne_iff_ne, and_timerBit_ne_zero_iff]

theorem pollDone_eq_false_iff (n waitirq : Byte) :
    pollDone n waitirq = false ↔ n.getLsbD 0 = false ∧ n &&& waitirq = 0 := by
  rw [← Bool.not_eq_true, pollDone_iff, not_or, not_not, Bool.not_eq_true]

theorem classify_chipError {errv nirq irqen : Byte} (error_bit : errv &&& 0x1B ≠ 0) :
    classify errv nirq irqen = (.protocolError, .chipError) :=
  if_pos error_bit

theorem classify_noCard {errv nirq irqen : Byte} (no_error : errv &&& 0x1B = 0)
    (timer : nirq &&& irqen &&& 0x01 ≠ 0) : classify errv nirq irqen = (.noCardDetected, .noCard) :=
  (if_neg (not_not.mpr no_error)).trans (if_pos timer)

theorem classify_ok {errv nirq irqen : Byte} (no_error : errv &&& 0x1B = 0)
    (no_timer : nirq &&& irqen &&& 0x01 = 0) : classify errv nirq irqen = (.ok, .none) :=
  (if_neg (not_not.mpr no_error)).trans (if_neg (not_not.mpr no_timer))

/-- Only Transceive's IRQEN has bit 0 set (R121, R132). -/
theorem and_irqEnableMask_and_timerBit {cmd : Byte} (not_transceive : cmd ≠ cmdTransceive) (n : Byte) :
    n &&& irqEnableMask cmd &&& 0x01 = 0 := by
  have bit_clear : irqEnableMask cmd &&& 0x01 = 0 := by
    unfold irqEnableMask
    rw [if_neg not_transceive]
    split <;> decide
  rw [BitVec.and_assoc, bit_clear]
  exact BitVec.and_zero

/-- The error check with no error bit: the read-back follows for Transceive only (R132, R133). -/
theorem xError_of_no_error (after : Phase) (s : State) {r : XOut × Cause}
    (hr : classify (pcdAnswer (regAddr .error) s) s.work.nirq s.work.irqen = r) (outcome : r.1 ≠ .protocolError) :
    xError after s = { afterRead (regAddr .error) s with
      work := { s.work with
        errv := pcdAnswer (regAddr .error) s, wxout := r.1, wcause := r.2
        phase := if s.work.cmd = cmdTransceive then .xchg .level else after } } := by
  by_cases transceive : s.work.cmd = cmdTransceive
  · rw [xError_readBack after s r hr ⟨outcome, transceive⟩, if_pos transceive]
  · rw [xError_end after s r hr fun h => transceive h.2, if_neg transceive]

/-- Settles O25: the three exits of the poll are the three rules of `xPoll`. -/
theorem pollIteration : Obligations.PollIteration := by
  intro s i hx ph
  refine ⟨_, rfl, fun last => ?_, fun not_last completed => ?_, fun not_last no_timer no_wait => ?_⟩
  · rw [exec_exchange hx ph, exchangeStep, xPoll_timeout _ s (sub_eq_zero.mpr last), last]
    rfl
  · rw [exec_exchange hx ph, exchangeStep,
      xPoll_done _ s (sub_ne_zero.mpr not_last) ((pollDone_iff _ _).mpr completed)]
    rfl
  · rw [exec_exchange hx ph, exchangeStep,
      xPoll_again _ s (sub_ne_zero.mpr not_last) ((pollDone_eq_false_iff _ _).mpr ⟨no_timer, no_wait⟩)]
    rfl

/-- Settles O28: each outcome of `classify` has its rule of `xError`. -/
theorem errorRegisterDecidesOutcome : Obligations.ErrorRegisterDecidesOutcome := by
  refine ⟨fun s i e hx ph he => ?_, fun cmd n not_transceive => and_irqEnableMask_and_timerBit not_transceive n⟩
  subst he
  refine ⟨fun error_bit => ?_, fun no_error timer => ?_, fun no_error no_timer => ?_⟩ <;>
    rw [exec_exchange hx ph, exchangeStep]
  · rw [xError_end _ s _ (classify_chipError error_bit) fun h => h.1 rfl]
    rfl
  · rw [xError_of_no_error _ s (classify_noCard no_error timer) nofun]
    rfl
  · rw [xError_of_no_error _ s (classify_ok no_error no_timer) nofun]
    rfl

/-! ## The response length -/

/-- The exact bit length in whole numbers: a valid-bit count of 0 means eight (R134). -/
theorem backLen_eq (lvl : Byte) (lb : BitVec 3) :
    backLen lvl lb = if lb.toNat = 0 then (lvl.toNat : Int) * 8 else ((lvl.toNat : Int) - 1) * 8 + lb.toNat := by
  have zero_iff : lb.toNat = 0 ↔ lb = 0 := BitVec.toNat_inj (y := 0)
  simp only [backLen, zero_iff]

/-- The valid-bit count is ControlReg modulo 8 (R133). -/
theorem validBits_toNat (c : Byte) : (c.extractLsb' 0 3).toNat = c.toNat % 8 := by
  rw [BitVec.extractLsb'_toNat, Nat.shiftRight_zero]

theorem clampCount_cases (lvl : Byte) :
    (clampCount lvl).toNat = if lvl = 0 then 1 else if 16 < lvl.toNat then 16 else lvl.toNat := by
  have zero_iff : lvl = 0 ↔ lvl.toNat = 0 := (BitVec.toNat_inj (y := 0)).symm
  simp only [clampCount_toNat, zero_iff]
  split_ifs <;> omega

/-- Settles O31: with the clamp as `max 1 (min 16 _)` and the length split on its valid-bit count, it is arithmetic. -/
theorem lengthFitsCountExactlyUpToSixteen : Obligations.LengthFitsCountExactlyUpToSixteen := by
  intro lvl lb
  have lb_lt := lb.isLt
  rw [backLen_eq, clampCount_toNat]
  refine ⟨?_, fun zero => ?_, fun long => ?_⟩
  · split_ifs <;> omega
  · subst zero
    refine ⟨rfl, ?_⟩
    rw [show (0 : Byte).toNat = 0 from rfl]
    split_ifs <;> omega
  · split_ifs <;> omega

/-! ## EXEC's commit -/

theorem execExchange_of_xchgEnd {s : State} (ph : s.work.phase = .xchgEnd) (cmd l : Byte) :
    execExchange cmd l s = .next (commitExec s) := by
  simp only [execExchange, ph]

/-- Settles O33: every EXEC variant commits as `commitExec` does. -/
theorem execCommit : Obligations.ExecCommit := fun _ _ cmd l form ph =>
  (exec_of_execForm form).trans (execExchange_of_xchgEnd ph cmd l)

end Sys2Proof.Machine
end

section
/-! Proofs about the exchange of spec/41_executor.md R120, run position by position: what each stretch of it does to the
whole state, whichever operation runs it. -/

namespace Sys2Proof.Machine

/-! ## Runs of the exchange -/

/-- `n` positions of an exchange that ends in the phase `after`, from `s` to `t`. -/
inductive ExchangeRun (after : Phase) : Nat → State → State → Prop where
  | done (s : State) : ExchangeRun after 0 s s
  | step {p n s t u} (ph : s.work.phase = .xchg p) (here : exchangeStep after p s = t)
      (more : ExchangeRun after n t u) : ExchangeRun after (n + 1) s u

namespace ExchangeRun
variable {after : Phase} {m n : Nat} {s t u : State}

theorem single {p : XPos} (ph : s.work.phase = .xchg p) (here : exchangeStep after p s = t) : ExchangeRun after 1 s t :=
  .step ph here (.done t)

theorem trans (first : ExchangeRun after m s t) (second : ExchangeRun after n t u) : ExchangeRun after (m + n) s u := by
  induction first with
  | done => rwa [Nat.zero_add]
  | step ph here _ ih => rw [Nat.succ_add]; exact .step ph here (ih second)

theorem to_eq (run : ExchangeRun after n s t) (same : t = u) : ExchangeRun after n s u := same ▸ run

/-- An operation with an exchange runs it (R139, R162, R177). -/
theorem runOp {i : Instr} (hx : runsExchange i = true) (run : ExchangeRun (endPhase i) n s t) :
    runOp i n s = .next t := by
  induction run with
  | done => rfl
  | step ph here _ ih => rw [runOp_succ (exec_exchange hx ph), here]; exact ih

end ExchangeRun

/-- A read that the PCD's answers are laid out for. -/
theorem afterRead_cons (a : RegAddr) {s : State} {v : Byte} {rest : List Byte} (answers : s.answers = v :: rest) :
    afterRead a s = { s with answers := rest, trace := .rd s.params.busAddr a v :: s.trace } := by
  rw [afterRead, pcdAnswer_cons a s v rest answers, answers]
  rfl

/-- One iteration is left when the counter is 1. -/
theorem sub_one_eq_zero_iff (i : BitVec 11) : i - 1 = 0 ↔ i.toNat = 1 :=
  sub_eq_zero.trans (BitVec.toNat_inj (y := 1)).symm

/-- The poll counter after `m` reads. -/
theorem toNat_sub_ofNat (i : BitVec 11) {m : Nat} (left : m ≤ i.toNat) :
    (i - BitVec.ofNat 11 m).toNat = i.toNat - m := by
  have m_toNat : (BitVec.ofNat 11 m).toNat = m := Nat.mod_eq_of_lt (left.trans_lt i.isLt)
  rw [BitVec.toNat_sub_of_le (BitVec.le_def.mpr (by rwa [m_toNat])), m_toNat]

/-- One read more, counted last. -/
theorem sub_ofNat_succ (i : BitVec 11) (m : Nat) :
    i - BitVec.ofNat 11 (m + 1) = i - BitVec.ofNat 11 m - 1 := by
  rw [BitVec.ofNat_add, sub_sub i]
  rfl

/-- One read more, counted first. -/
theorem sub_one_sub_ofNat (i : BitVec 11) (m : Nat) :
    i - 1 - BitVec.ofNat 11 m = i - BitVec.ofNat 11 (m + 1) := by
  rw [sub_ofNat_succ, sub_right_comm]

section Stretches
variable {after : Phase} {s : State}

/-! ## Enabling, clearing and flushing (R122) -/

/-- The five transactions of R122, newest first; `a` and `b` are the bytes read. -/
def flushTrace (s : State) (a b : Byte) : List Txn :=
  [.wr s.params.busAddr 0x0A (b ||| 0x80), .rd s.params.busAddr 0x0A b, .wr s.params.busAddr 0x04 (a &&& 0x7F),
    .rd s.params.busAddr 0x04 a, .wr s.params.busAddr 0x02 (s.work.irqen ||| 0x80)]

/-- The first five positions. -/
theorem exchangeRun_flush (after : Phase) (ph : s.work.phase = .xchg .enable) :
    ∃ a b, ExchangeRun after 5 s { s with
        answers := s.answers.tail.tail, trace := flushTrace s a b ++ s.trace
        work := { s.work with t := b, phase := .xchg .loadIdle } }
      ∧ ∀ a' b' rest, s.answers = a' :: b' :: rest → a = a' ∧ b = b' := by
  refine ⟨pcdAnswer (regAddr .comIrq) (xEnable s), pcdAnswer (regAddr .fifoLevel) (xIrqWrite (xIrqRead (xEnable s))),
    ?_, fun a' b' rest answers => ⟨pcdAnswer_cons _ _ a' (b' :: rest) answers, pcdAnswer_cons _ _ b' rest ?_⟩⟩
  · exact .step ph rfl (.step (p := .irqRead) rfl rfl (.step (p := .irqWrite) rfl rfl (.step (p := .flushRead) rfl rfl
      (.single (p := .flushWrite) rfl rfl))))
  · exact congrArg List.tail answers

/-! ## The payload (R123, R124) -/

/-- The FIFO writes of the payload bytes `k` to `k + n - 1`, in the order of time. -/
def payloadWrites (s : State) (k n : Nat) : List Txn :=
  (List.range' k n).map fun j => .wr s.params.busAddr 0x09 (byteAt s.work.wpay j)

theorem payloadWrites_succ (s : State) (k n : Nat) :
    payloadWrites s k (n + 1) = .wr s.params.busAddr 0x09 (byteAt s.work.wpay k) :: payloadWrites s (k + 1) n := rfl

/-- The payload loop from byte `k` to its end. -/
theorem exchangeRun_push {k : Nat} (n : Nat) (ph : s.work.phase = .xchg .push) (at_k : s.work.k.toNat = k)
    (left : k + (n + 1) = s.work.wlen.toNat) :
    ExchangeRun after (n + 1) s { s with
      trace := (payloadWrites s k (n + 1)).reverse ++ s.trace
      work := { s.work with k := s.work.wlen, phase := .xchg .start } } := by
  induction n generalizing s k with
  | zero =>
    have at_end : s.work.k + 1 = s.work.wlen := by
      have := s.work.wlen.isLt
      exact BitVec.eq_of_toNat_eq ((toNat_succ5 (by omega)).trans (by omega))
    refine .single ph ((xPush_last s (by omega)).trans ?_)
    rw [at_end, at_k]
    rfl
  | succ n ih =>
    have k_succ : (s.work.k + 1).toNat = k + 1 := by
      have := s.work.wlen.isLt
      exact (toNat_succ5 (by omega)).trans (congrArg (· + 1) at_k)
    refine .step ph (xPush_more s (by omega)) (.to_eq (ih rfl k_succ ?_) ?_)
    · exact (Nat.succ_add_eq_add_succ k (n + 1)).trans left
    · rw [payloadWrites_succ s, List.reverse_cons, List.append_assoc, at_k]
      rfl

/-- From the write of Idle to the end of the payload. -/
theorem exchangeRun_payload (after : Phase) (ph : s.work.phase = .xchg .loadIdle) :
    ExchangeRun after (s.work.wlen.toNat + 1) s { s with
      trace := (payloadWrites s 0 s.work.wlen.toNat).reverse ++ .wr s.params.busAddr 0x01 0x00 :: s.trace
      work := { s.work with k := s.work.wlen, phase := .xchg .start } } := by
  by_cases empty : s.work.wlen = 0
  · refine .step ph (xLoadIdle_empty s empty) ?_
    rw [empty]
    exact .done _
  · obtain ⟨n, wlen⟩ : ∃ n, s.work.wlen.toNat = n + 1 :=
      Nat.exists_eq_succ_of_ne_zero fun zero => empty (BitVec.eq_of_toNat_eq zero)
    refine .step ph (xLoadIdle_push s empty) ?_
    rw [wlen]
    exact exchangeRun_push n rfl rfl ((Nat.zero_add _).trans wlen.symm)

/-! ## The command and the start of the poll (R125, R126) -/

/-- A command other than Transceive: the poll begins at once (R125). -/
theorem exchangeRun_start_other (ph : s.work.phase = .xchg .start) (not_transceive : s.work.cmd ≠ cmdTransceive) :
    ExchangeRun after 1 s { s with
      trace := .wr s.params.busAddr 0x01 s.work.cmd :: s.trace
      work := { s.work with i := 2000, phase := .xchg .poll } } :=
  .single ph (xStart_other s not_transceive)

/-- Transceive: the start-send step is next (R125). -/
theorem exchangeRun_start_transceive (ph : s.work.phase = .xchg .start) (transceive : s.work.cmd = cmdTransceive) :
    ExchangeRun after 1 s { s with
      trace := .wr s.params.busAddr 0x01 s.work.cmd :: s.trace
      work := { s.work with phase := .xchg .sendRead } } :=
  .single ph (xStart_transceive s transceive)

/-- Transceive's start-send step (R126). -/
theorem exchangeRun_send (ph : s.work.phase = .xchg .sendRead) :
    ExchangeRun after 2 s { s with
      answers := s.answers.tail
      trace := .wr s.params.busAddr 0x0D (pcdAnswer 0x0D s ||| 0x80) :: .rd s.params.busAddr 0x0D (pcdAnswer 0x0D s)
        :: s.trace
      work := { s.work with t := pcdAnswer 0x0D s, i := 2000, phase := .xchg .poll } } :=
  .step ph rfl (.single (p := .sendWrite) rfl rfl)

/-! ## From the first position to the poll -/

/-- The transactions before the command, newest first (R122 to R124). -/
def armTrace (s : State) (a b : Byte) : List Txn :=
  (payloadWrites s 0 s.work.wlen.toNat).reverse ++ .wr s.params.busAddr 0x01 0x00 :: flushTrace s a b

theorem length_armTrace (s : State) (a b : Byte) : (armTrace s a b).length = s.work.wlen.toNat + 6 := by
  simp [armTrace, payloadWrites, flushTrace]

section ToPoll
variable {a b : Byte} {rest : List Byte} (ph : s.work.phase = .xchg .enable)
include ph

theorem exchangeRun_toStart (after : Phase) (answers : s.answers = a :: b :: rest) :
    ExchangeRun after (s.work.wlen.toNat + 6) s { s with
      answers := rest, trace := armTrace s a b ++ s.trace
      work := { s.work with t := b, k := s.work.wlen, phase := .xchg .start } } := by
  obtain ⟨a', b', flush, given⟩ := exchangeRun_flush after ph
  obtain ⟨rfl, rfl⟩ := given a b rest answers
  have payload := flush.trans (exchangeRun_payload after rfl)
  rw [answers, Nat.add_comm] at payload
  refine payload.to_eq ?_
  rw [armTrace, List.append_assoc]
  rfl

/-- A command other than Transceive, to the start of its poll. -/
theorem exchangeRun_toPoll_other (not_transceive : s.work.cmd ≠ cmdTransceive)
    (answers : s.answers = a :: b :: rest) :
    ExchangeRun after (s.work.wlen.toNat + 7) s { s with
      answers := rest, trace := .wr s.params.busAddr 0x01 s.work.cmd :: (armTrace s a b ++ s.trace)
      work := { s.work with t := b, k := s.work.wlen, i := 2000, phase := .xchg .poll } } :=
  (exchangeRun_toStart ph after answers).trans (exchangeRun_start_other rfl not_transceive)

/-- Transceive, to the start of its poll. -/
theorem exchangeRun_toPoll_transceive {f : Byte} (transceive : s.work.cmd = cmdTransceive)
    (answers : s.answers = a :: b :: f :: rest) :
    ExchangeRun after (s.work.wlen.toNat + 9) s { s with
      answers := rest
      trace := .wr s.params.busAddr 0x0D (f ||| 0x80) :: .rd s.params.busAddr 0x0D f
        :: .wr s.params.busAddr 0x01 s.work.cmd :: (armTrace s a b ++ s.trace)
      work := { s.work with t := f, k := s.work.wlen, i := 2000, phase := .xchg .poll } } := by
  have command := (exchangeRun_toStart ph after answers).trans (exchangeRun_start_transceive rfl transceive)
  exact command.trans (exchangeRun_send rfl)

/-- Any command, to the start of its poll: how many transactions it makes (R148). -/
theorem exchangeRun_toPoll {arm : List Byte} (after : Phase) (answers : s.answers = arm ++ rest)
    (arm_length : arm.length = if s.work.cmd = cmdTransceive then 3 else 2) :
    ∃ t armed, ExchangeRun after armed.length s { s with
        answers := rest, trace := armed ++ s.trace
        work := { s.work with t := t, k := s.work.wlen, i := 2000, phase := .xchg .poll } }
      ∧ armed.length = (if s.work.cmd = cmdTransceive then 9 else 7) + s.work.wlen.toNat := by
  by_cases transceive : s.work.cmd = cmdTransceive
  · rw [if_pos transceive] at arm_length ⊢
    obtain ⟨a, b, f, rfl⟩ := List.length_eq_three.mp arm_length
    refine ⟨f, .wr s.params.busAddr 0x0D (f ||| 0x80) :: .rd s.params.busAddr 0x0D f
      :: .wr s.params.busAddr 0x01 s.work.cmd :: armTrace s a b, ?_, ?_⟩
    · simp only [List.length_cons, length_armTrace]
      exact exchangeRun_toPoll_transceive ph transceive answers
    · simp only [List.length_cons, length_armTrace]
      omega
  · rw [if_neg transceive] at arm_length ⊢
    obtain ⟨a, b, rfl⟩ := List.length_eq_two.mp arm_length
    refine ⟨b, .wr s.params.busAddr 0x01 s.work.cmd :: armTrace s a b, ?_, ?_⟩
    · rw [List.length_cons, length_armTrace]
      exact exchangeRun_toPoll_other ph transceive answers
    · rw [List.length_cons, length_armTrace]
      omega

end ToPoll

/-! ## The poll (R127 to R129) -/

/-- The reads of `xs` from the PCD register `a`, in the order of time. -/
def readTrace (s : State) (a : RegAddr) (xs : List Byte) : List Txn := xs.map fun x => .rd s.params.busAddr a x

/-- No byte of `misses` shows completion under the mask `waitirq` (R127). -/
def NoneCompletes (waitirq : Byte) (misses : List Byte) : Prop :=
  ∀ x ∈ misses, x.getLsbD 0 = false ∧ x &&& waitirq = 0

/-- Polls without completion, with iterations left after them. -/
theorem exchangeRun_misses {misses rest : List Byte} (ph : s.work.phase = .xchg .poll)
    (answers : s.answers = misses ++ rest) (no_completion : NoneCompletes s.work.waitirq misses)
    (left : misses.length < s.work.i.toNat) :
    ExchangeRun after misses.length s { s with
      answers := rest, trace := (readTrace s 0x04 misses).reverse ++ s.trace
      work := { s.work with
        nirq := misses.getLastD s.work.nirq, i := s.work.i - BitVec.ofNat 11 misses.length } } := by
  induction misses generalizing s with
  | nil =>
    obtain rfl : s.answers = rest := answers
    refine (ExchangeRun.done s).to_eq ?_
    rw [List.length_nil, show s.work.i - BitVec.ofNat 11 0 = s.work.i from sub_zero _]
    rfl
  | cons x misses ih =>
    obtain ⟨missed, no_completion⟩ := List.forall_mem_cons.mp no_completion
    rw [List.length_cons] at left
    have not_last : s.work.i - 1 ≠ 0 := by rw [Ne, sub_one_eq_zero_iff]; omega
    obtain ⟨i_pred, -⟩ := toNat_pred (by omega) not_last
    have here := xPoll_again after s not_last
      (by rw [pcdAnswer_cons _ s x _ answers]; exact (pollDone_eq_false_iff _ _).mpr missed)
    rw [pcdAnswer_cons _ s x _ answers, afterRead_cons _ answers] at here
    refine .step ph here (.to_eq (ih rfl rfl no_completion (by dsimp only; omega)) ?_)
    rw [List.length_cons, ← sub_one_sub_ofNat, List.getLastD_cons, ← ph]
    simp [readTrace, regAddr]

/-- A completion with iterations left ends the poll (R128). -/
theorem exchangeRun_pollDone {misses rest : List Byte} {n : Byte} (ph : s.work.phase = .xchg .poll)
    (answers : s.answers = misses ++ n :: rest) (no_completion : NoneCompletes s.work.waitirq misses)
    (completes : n.getLsbD 0 = true ∨ n &&& s.work.waitirq ≠ 0) (left : misses.length + 1 < s.work.i.toNat) :
    ExchangeRun after (misses.length + 1) s { s with
      answers := rest, trace := (readTrace s 0x04 (misses ++ [n])).reverse ++ s.trace
      work := { s.work with
        nirq := n, i := s.work.i - BitVec.ofNat 11 (misses.length + 1), phase := .xchg .error } } := by
  have left_now := toNat_sub_ofNat s.work.i (m := misses.length) (by omega)
  have not_last : s.work.i - BitVec.ofNat 11 misses.length - 1 ≠ 0 := by
    rw [Ne, sub_one_eq_zero_iff, left_now]
    omega
  refine (exchangeRun_misses ph answers no_completion (by omega)).trans (.single ph ?_)
  rw [exchangeStep, xPoll_done _ _ not_last (by rwa [pollDone_iff]), pcdAnswer_cons _ _ n rest rfl,
    afterRead_cons _ rfl, sub_ofNat_succ]
  simp [readTrace, regAddr]

/-- The last read of the budget ends the poll as a timeout (R129). -/
theorem exchangeRun_pollTimeout {misses rest : List Byte} {n : Byte} (ph : s.work.phase = .xchg .poll)
    (answers : s.answers = misses ++ n :: rest) (no_completion : NoneCompletes s.work.waitirq misses)
    (budget : misses.length + 1 = s.work.i.toNat) :
    ExchangeRun after (misses.length + 1) s { s with
      answers := rest, trace := (readTrace s 0x04 (misses ++ [n])).reverse ++ s.trace
      work := { s.work with nirq := n, i := 0, wxout := .protocolError, wcause := .timeout, phase := after } } := by
  have left_now := toNat_sub_ofNat s.work.i (m := misses.length) (by omega)
  have last : s.work.i - BitVec.ofNat 11 misses.length - 1 = 0 := by
    rw [sub_one_eq_zero_iff, left_now]
    omega
  refine (exchangeRun_misses ph answers no_completion (by omega)).trans (.single ph ?_)
  rw [exchangeStep, xPoll_timeout _ _ last, pcdAnswer_cons _ _ n rest rfl, afterRead_cons _ rfl, last]
  simp [readTrace, regAddr]

/-! ## The error check (R130 to R132) -/

section ErrorCheck
variable {e : Byte} {rest : List Byte} {r : XOut × Cause} (ph : s.work.phase = .xchg .error)
  (answers : s.answers = e :: rest) (outcome : classify e s.work.nirq s.work.irqen = r)
include ph answers outcome

/-- The error check before a read-back. -/
theorem exchangeRun_error_readBack (reads : r.1 ≠ .protocolError ∧ s.work.cmd = cmdTransceive) :
    ExchangeRun after 1 s { s with
      answers := rest, trace := .rd s.params.busAddr 0x06 e :: s.trace
      work := { s.work with errv := e, wxout := r.1, wcause := r.2, phase := .xchg .level } } := by
  have read := pcdAnswer_cons (regAddr .error) s e rest answers
  have here := xError_readBack after s r (by rw [read]; exact outcome) reads
  rw [read, afterRead_cons _ answers] at here
  exact .single ph here

/-- The error check that ends the exchange. -/
theorem exchangeRun_error_end (ends : ¬ (r.1 ≠ .protocolError ∧ s.work.cmd = cmdTransceive)) :
    ExchangeRun after 1 s { s with
      answers := rest, trace := .rd s.params.busAddr 0x06 e :: s.trace
      work := { s.work with errv := e, wxout := r.1, wcause := r.2, phase := after } } := by
  have read := pcdAnswer_cons (regAddr .error) s e rest answers
  have here := xError_end after s r (by rw [read]; exact outcome) ends
  rw [read, afterRead_cons _ answers] at here
  exact .single ph here

end ErrorCheck

/-! ## The read-back (R133 to R136) -/

/-- The two reads of R133 and the length and count of R134 and R135. -/
theorem exchangeRun_readBack (after : Phase) (ph : s.work.phase = .xchg .level) :
    ∃ lvl c, ExchangeRun after 2 s { s with
        answers := s.answers.tail.tail
        trace := .rd s.params.busAddr 0x0C c :: .rd s.params.busAddr 0x0A lvl :: s.trace
        work := { s.work with
          lvl := lvl, lb := c.extractLsb' 0 3, wbits := BitVec.ofInt 16 (backLen lvl (c.extractLsb' 0 3))
          wcount := clampCount lvl, k := 0, phase := .xchg .fetch } }
      ∧ ∀ lvl' c' rest, s.answers = lvl' :: c' :: rest → lvl = lvl' ∧ c = c' :=
  ⟨pcdAnswer (regAddr .fifoLevel) s, pcdAnswer (regAddr .control) (xLevel s),
    .step ph rfl (.single (p := .control) rfl rfl), fun lvl' c' rest answers =>
      ⟨pcdAnswer_cons _ _ lvl' (c' :: rest) answers, pcdAnswer_cons _ _ c' rest (congrArg List.tail answers)⟩⟩

/-- The read-back of answers that are laid out. -/
theorem exchangeRun_readBack_of_answers {lvl c : Byte} {rest : List Byte} (ph : s.work.phase = .xchg .level)
    (answers : s.answers = lvl :: c :: rest) :
    ExchangeRun after 2 s { s with
      answers := rest, trace := .rd s.params.busAddr 0x0C c :: .rd s.params.busAddr 0x0A lvl :: s.trace
      work := { s.work with
        lvl := lvl, lb := c.extractLsb' 0 3, wbits := BitVec.ofInt 16 (backLen lvl (c.extractLsb' 0 3))
        wcount := clampCount lvl, k := 0, phase := .xchg .fetch } } := by
  obtain ⟨lvl', c', readBack, given⟩ := exchangeRun_readBack after ph
  obtain ⟨rfl, rfl⟩ := given lvl c rest answers
  rw [answers] at readBack
  exact readBack

/-- A byte file with `data` written from entry `k` on. -/
def fillBytes {n : Nat} (v : Vector Byte n) (k : Nat) : List Byte → Vector Byte n
  | [] => v
  | x :: data => fillBytes (setByte v k x) (k + 1) data

theorem byteAt_fillBytes {n : Nat} (v : Vector Byte n) (k : Nat) (data : List Byte) {j : Nat} (hj : j < n) :
    byteAt (fillBytes v k data) j = if k ≤ j ∧ j < k + data.length then data.getD (j - k) 0 else byteAt v j := by
  induction data generalizing v k with
  | nil => rw [if_neg (by simp)]; rfl
  | cons x data ih =>
    rw [fillBytes, ih, byteAt_setByte, List.length_cons]
    rcases lt_trichotomy j k with before | rfl | later
    · rw [if_neg (by omega), if_neg (by omega), if_neg (by omega)]
    · simp [hj]
    · have index : j - k = j - (k + 1) + 1 := by omega
      have same_range : (k + 1 ≤ j ∧ j < k + 1 + data.length) ↔ k ≤ j ∧ j < k + (data.length + 1) := by omega
      simp only [same_range, index, List.getD_cons_succ, later.ne, false_and, if_false]

/-- A byte file of zeros with `data` written at its beginning (R120, R136). -/
theorem byteAt_fillBytes_replicate {n : Nat} (data : List Byte) {j : Nat} (hj : j < n) :
    byteAt (fillBytes (Vector.replicate n 0) 0 data) j = data.getD j 0 := by
  rw [byteAt_fillBytes _ 0 data hj, Nat.sub_zero, Nat.zero_add]
  by_cases read : j < data.length
  · exact if_pos ⟨Nat.zero_le j, read⟩
  · rw [if_neg fun h => read h.2, List.getD_eq_default _ _ (not_lt.mp read)]
    exact byteAt_replicate n j

/-- The response loop from the entry `k` to its end. -/
theorem exchangeRun_fetch {k : Nat} {data rest : List Byte} (ph : s.work.phase = .xchg .fetch)
    (at_k : s.work.k.toNat = k) (answers : s.answers = data ++ rest) (nonempty : data ≠ [])
    (left : k + data.length = s.work.wcount.toNat) :
    ExchangeRun after data.length s { s with
      answers := rest, trace := (readTrace s 0x09 data).reverse ++ s.trace
      work := { s.work with wdata := fillBytes s.work.wdata k data, k := s.work.wcount, phase := after } } := by
  induction data generalizing s k with
  | nil => exact absurd rfl nonempty
  | cons x data ih =>
    have k_succ : (s.work.k + 1).toNat = k + 1 := by
      have := s.work.wcount.isLt
      rw [List.length_cons] at left
      exact (toNat_succ5 (by omega)).trans (congrArg (· + 1) at_k)
    by_cases last : data = []
    · subst last
      have at_end : s.work.k + 1 = s.work.wcount := BitVec.eq_of_toNat_eq (k_succ.trans left)
      refine .single ph ((xFetch_last after s (by rw [at_k, ← left]; exact lt_irrefl _)).trans ?_)
      rw [pcdAnswer_cons _ s x _ answers, afterRead_cons _ answers, at_end, at_k]
      rfl
    · have more : s.work.k.toNat + 1 < s.work.wcount.toNat := by
        have := List.length_pos_iff.mpr last
        rw [List.length_cons] at left
        omega
      have here := xFetch_more after s more
      rw [pcdAnswer_cons _ s x _ answers, afterRead_cons _ answers, at_k] at here
      refine .step ph here (.to_eq (ih rfl k_succ rfl last ?_) ?_)
      · exact (Nat.succ_add_eq_add_succ k data.length).trans left
      · simp [readTrace, fillBytes, regAddr]

end Stretches

end Sys2Proof.Machine
end

section
/-! The statements about the stretches of an exchange, for every operation that runs one. -/

namespace Sys2Proof.Machine

/-- Settles O22: the five transactions of R122, then the write of Idle. -/
theorem exchangeArmsFlushesAndIdles : Obligations.ExchangeArmsFlushesAndIdles := by
  intro s i hx ph
  obtain ⟨a, b, flush, given⟩ := exchangeRun_flush (endPhase i) ph
  have arm := flush.trans (.single (p := .loadIdle) rfl rfl)
  exact ⟨a, b, _, arm.runOp hx, rfl, rfl, rfl, rfl, rfl, rfl, rfl, rfl, rfl, fun a' b' rest answers =>
    have ⟨same_a, same_b⟩ := given a' b' rest answers
    ⟨same_a, same_b, congrArg (·.tail.tail) answers⟩⟩

/-- Settles O23: the payload loop, then the write of CMD, after which Transceive alone does not poll at once. -/
theorem payloadPushedInOrder : Obligations.PayloadPushedInOrder := by
  intro s i hx ph _
  have payload := exchangeRun_payload (endPhase i) ph
  have writes : payloadWrites s 0 s.work.wlen.toNat
      = (List.range s.work.wlen.toNat).map fun k => .wr s.params.busAddr 0x09 (byteAt s.work.wpay k) := by
    rw [payloadWrites, List.range_eq_range']
  rw [← writes]
  by_cases transceive : s.work.cmd = cmdTransceive
  · exact ⟨_, (payload.trans (exchangeRun_start_transceive rfl transceive)).runOp hx, rfl, rfl, rfl, rfl, rfl, rfl,
      fun _ => rfl, fun other => absurd transceive other⟩
  · exact ⟨_, (payload.trans (exchangeRun_start_other rfl transceive)).runOp hx, rfl, rfl, rfl, rfl, rfl, rfl,
      fun same => absurd same transceive, fun _ => ⟨rfl, rfl⟩⟩

/-- Settles O24 by the stretch of R126. -/
theorem startSendSetsBitSeven : Obligations.StartSendSetsBitSeven := fun _ _ hx ph => (exchangeRun_send ph).runOp hx

/-- The reads of a poll as the statements write them. -/
theorem readTrace_append_singleton (s : State) (a : RegAddr) (xs : List Byte) (n : Byte) :
    (readTrace s a (xs ++ [n])).reverse = .rd s.params.busAddr a n :: (readTrace s a xs).reverse := by
  rw [readTrace, List.map_append, List.reverse_append]
  rfl

/-- Settles O26 by the poll's stretch that ends in a completion. -/
theorem pollStopsAtFirstCompletion : Obligations.PollStopsAtFirstCompletion := by
  intro s i misses n rest hx ph answers no_completion completes left
  exact ⟨_, (exchangeRun_pollDone ph answers no_completion completes left).runOp hx, rfl, rfl,
    toNat_sub_ofNat s.work.i left.le, rfl, rfl, congrArg (· ++ s.trace) (readTrace_append_singleton s 0x04 misses n)⟩

/-- Settles O27 by the poll's stretch that ends on the last read of the budget. -/
theorem pollTimesOutAtBudget : Obligations.PollTimesOutAtBudget := by
  intro s i misses n rest hx ph answers no_completion budget
  exact ⟨_, (exchangeRun_pollTimeout ph answers no_completion budget).runOp hx, rfl, rfl, rfl, rfl, rfl, rfl, rfl, rfl,
    rfl, congrArg (· ++ s.trace) (readTrace_append_singleton s 0x04 misses n)⟩

/-- WBITS after a read-back as a whole number (R134). -/
theorem wbits_toInt (lvl c : Byte) :
    (BitVec.ofInt 16 (backLen lvl (c.extractLsb' 0 3))).toInt
      = if c.toNat % 8 = 0 then (lvl.toNat : Int) * 8 else ((lvl.toNat : Int) - 1) * 8 + (c.toNat % 8 : Nat) := by
  rw [backLen_exact, backLen_eq, validBits_toNat]

/-- Settles O29: the two reads, with WBITS exact and WCOUNT the clamped level. -/
theorem readBackLengthAndCount : Obligations.ReadBackLengthAndCount := by
  intro s i hx ph
  obtain ⟨lvl, c, readBack, given⟩ := exchangeRun_readBack (endPhase i) ph
  obtain ⟨low, high⟩ := backLen_range lvl (c.extractLsb' 0 3)
  rw [← backLen_exact] at low high
  exact ⟨lvl, c, _, readBack.runOp hx, rfl, rfl, validBits_toNat c, wbits_toInt lvl c, low, high, clampCount_cases lvl,
    rfl, rfl, rfl, rfl, fun lvl' c' rest answers =>
      have ⟨same_lvl, same_c⟩ := given lvl' c' rest answers
      ⟨same_lvl, same_c, congrArg (·.tail.tail) answers⟩⟩

/-- Settles O30: the response loop from entry 0. -/
theorem responseReadInOrder : Obligations.ResponseReadInOrder := by
  intro s i data rest hx ph at_zero count_pos _ length answers
  have nonempty : data ≠ [] := List.length_pos_iff.mp (by omega)
  rw [← length]
  refine ⟨_, (exchangeRun_fetch ph (congrArg BitVec.toNat at_zero) answers nonempty
    ((Nat.zero_add _).trans length)).runOp hx, fun k hk => ?_, rfl, rfl, rfl, rfl, rfl, rfl, rfl, rfl⟩
  refine (byteAt_fillBytes _ 0 data hk).trans ?_
  simp only [Nat.zero_le, true_and, Nat.zero_add, Nat.sub_zero]

end Sys2Proof.Machine
end

section
/-! Proofs about the runs of an exchange operation from its GO to its commit, left to itself (log 5): the acceptance,
the exchange as a run of the machine, the commit of a failure, and the statements about whole operations. -/

namespace Sys2Proof.Machine

/-! ## An operation left to itself -/

/-- The host's one move is the GO of `i`, with no operation in flight. -/
structure Issued (i : Instr) (s : State) : Prop where
  legal : s.params.legal = true
  idle : s.work.phase = .idle
  not_busy : s.host.busy = false
  go : ∃ v : Byte, s.moves = [.write 0x10 v] ∧ v.getLsbD 0 = true
  decodes : decode s.params (opWord s.host) = .legal i

/-- No move is left, and `i` is the operation latched in OPL. -/
structure Undisturbed (i : Instr) (s : State) : Prop where
  legal : s.params.legal = true
  no_move : s.moves = []
  latched : decode s.params s.work.opl = .legal i

section Alone
variable {i : Instr} {s t u w : State}

theorem Issued.step_eq (issued : Issued i s) : step s = exec i { s with moves := [] } := by
  obtain ⟨legal, -, not_busy, ⟨v, next_move, bit_set⟩, decodes⟩ := issued
  exact stepRunsIssuedWord s v [] i legal next_move bit_set not_busy decodes

theorem Undisturbed.step_eq (alone : Undisturbed i s) (in_flight : s.work.phase ≠ .idle) : step s = exec i s :=
  (step_of_noMove alone.legal alone.no_move).trans (cixMove_of_inFlight in_flight alone.latched)

/-- An exchange left to itself runs as the machine's own steps. -/
theorem ExchangeRun.run {n : Nat} (exchange : ExchangeRun (endPhase i) n s t) (hx : runsExchange i = true)
    (alone : Undisturbed i s) : run n s = .next t ∧ Undisturbed i t := by
  induction exchange with
  | done => exact ⟨rfl, alone⟩
  | @step p n s u t ph here _ ih =>
    have step_u : Machine.step s = .next u := by
      rw [alone.step_eq (by rw [ph]; exact nofun), exec_exchange hx ph, here]
    have frame : ExchangeFrame s u := here ▸ exchangeStep_frame (endPhase i) p s
    rw [run_succ step_u]
    exact ih ⟨frame.params ▸ alone.legal, frame.moves ▸ alone.no_move,
      by rw [frame.params, frame.setup.opl]; exact alone.latched⟩

/-- A whole operation: up to its exchange, the exchange, and the commit. -/
theorem run_whole {m n : Nat} (hx : runsExchange i = true) (begun : run m s = .next u) (alone : Undisturbed i u)
    (exchange : ExchangeRun (endPhase i) n u w) (in_flight : w.work.phase ≠ .idle) (commits : exec i w = .next t) :
    run (m + (n + 1)) s = .next t := by
  obtain ⟨ran, alone'⟩ := exchange.run hx alone
  exact (run_add begun).trans ((run_add ran).trans (run_succ ((alone'.step_eq in_flight).trans commits)))

end Alone

/-! ## Up to the exchange -/

section Begin
variable {i : Instr} {s : State} {cmd l : Byte}

/-- `s` at the first position of an exchange of `cmd` and `l`, after the transactions `pre` (R95, R120, R121). -/
def begun (cmd l : Byte) (wpay : Vector Byte 16) (pre : List Txn) (s : State) : State :=
  { s with
    moves := [], trace := pre ++ s.trace
    host := { s.host with busy := true, done := false, ill := false }
    work := { s.work with
      opl := opWord s.host, wpay := wpay
      cmd := cmd, wlen := l.setWidth 5, wxout := .protocolError, wcause := .none, wbits := 0, wcount := 0
      wdata := .replicate 16 0, irqen := irqEnableMask cmd, waitirq := waitMask cmd, phase := .xchg .enable } }

theorem Issued.undisturbed_begun (issued : Issued i s) (cmd l : Byte) (wpay : Vector Byte 16) (pre : List Txn) :
    Undisturbed i (begun cmd l wpay pre s) :=
  ⟨issued.legal, rfl, issued.decodes⟩

theorem runsExchange_of_exchangeForm {p : Params} (form : exchangeForm p i = some (cmd, l)) :
    runsExchange i = true := by
  cases i with
  | setBits | clearBits => cases form
  | _ => rfl

/-- An operation issued by a word has a payload length within the bound of R86. -/
theorem Issued.payload_fits (issued : Issued i s) (form : exchangeForm s.params i = some (cmd, l)) : l.toNat ≤ 16 := by
  have wf := (encodeDecodeRoundTrip _ _ _ issued.decodes).1
  cases i with
  | idle | transceive | authent | softReset | receive | transmit | calcCrc =>
    cases form
    exact decide_eq_true_iff.mp wf
  | reqIdl | reqAll | anticoll => cases form; decide
  | setBits | clearBits => cases form

theorem exchangeForm_of_execForm {p : Params} (form : execForm p i = some (cmd, l)) :
    exchangeForm p i = some (cmd, l) := by
  obtain ⟨-, -, form'⟩ := ownsPhase_of_execForm form
  exact form'

/-- EXEC begins its exchange in one step. -/
theorem Issued.run_begin_exec (issued : Issued i s) (form : execForm s.params i = some (cmd, l)) :
    run 1 s = .next (begun cmd l (latchPayload s.host.payload s.work.wpay l.toNat) [] s) := by
  have accepts : step s = .next (acceptExec cmd l { s with moves := [] }) := by
    have fits : l.toNat ≤ Config.maxLen := issued.payload_fits (exchangeForm_of_execForm form)
    rw [issued.step_eq, exec_of_execForm (s := { s with moves := [] }) form,
      execExchange_of_idle (s := { s with moves := [] }) issued.idle, if_pos fits]
  exact run_succ accepts

theorem execRequest_of_protoPre (ph : s.work.phase = .protoPre) (mode : Byte) :
    execRequest mode s = .next (requestPre mode s) := by
  simp only [execRequest, ph]

theorem execAnticoll_of_protoPre (ph : s.work.phase = .protoPre) : execAnticoll s = .next (anticollPre s) := by
  simp only [execAnticoll, ph]

/-- REQUEST and ANTICOLL begin theirs in two: the acceptance, and the write of BitFramingReg. -/
theorem Issued.run_begin_protocol (issued : Issued i s) {pre : State → State}
    (accepts : ∀ u : State, u.work.phase = .idle → exec i u = .next (accept .protoPre u))
    (frames : ∀ u : State, u.work.phase = .protoPre → exec i u = .next (pre u)) :
    run 2 s = .next (pre (accept .protoPre { s with moves := [] })) := by
  have alone : Undisturbed i (accept .protoPre { s with moves := [] }) := ⟨issued.legal, rfl, issued.decodes⟩
  rw [run_succ (issued.step_eq.trans (accepts _ issued.idle)), run_succ ((alone.step_eq nofun).trans (frames _ rfl)),
    run_zero]

/-- Every operation with an exchange comes to the first position of it, EXEC with no transaction before it and REQUEST
and ANTICOLL with one. -/
theorem Issued.run_begin (issued : Issued i s) (form : exchangeForm s.params i = some (cmd, l)) :
    ∃ wpay pre, run (1 + pre.length) s = .next (begun cmd l wpay pre s)
      ∧ pre.length = if execForm s.params i = some (cmd, l) then 0 else 1 := by
  cases i with
  | idle | transceive | authent | softReset | receive | transmit | calcCrc =>
    exact ⟨_, [], issued.run_begin_exec form, (if_pos form).symm⟩
  | reqIdl | reqAll =>
    cases form
    exact ⟨_, [_], issued.run_begin_protocol (fun _ idle => execRequest_of_idle idle _)
      fun _ ph => execRequest_of_protoPre ph _, rfl⟩
  | anticoll =>
    cases form
    exact ⟨_, [_], issued.run_begin_protocol (fun _ idle => execAnticoll_of_idle idle)
      fun _ ph => execAnticoll_of_protoPre ph, rfl⟩
  | setBits | clearBits => cases form

end Begin

/-! ## The commit of a failure -/

/-- How the results `r` of an operation show that its exchange failed (R138, R164, R181); `h` are the results before. -/
structure ReportsFailure (i : Instr) (h r : HostRegs) : Prop where
  request : i = .reqIdl ∨ i = .reqAll → r.pres = .noCardFound ∧ r.seq = .idle ∧ r.cardtype = 0 ∧ r.uid = h.uid
  anticoll : i = .anticoll →
    r.pres = .noUidFound ∧ r.seq = .idle ∧ r.uid = .replicate 4 0 ∧ r.cardtype = h.cardtype
  exec : ∀ {p : Params} {form : Byte × Byte}, execForm p i = some form →
    r.pres = h.pres ∧ r.seq = h.seq ∧ r.cardtype = h.cardtype ∧ r.uid = h.uid

section Failure
variable {i : Instr} {s : State}

theorem endPhase_ne_idle (i : Instr) : endPhase i ≠ .idle := by
  cases i <;> exact nofun

theorem validateRequest_of_protocolError {w : WorkRegs} (failed : w.wxout = .protocolError) :
    validateRequest w = (false, w.wcause) :=
  if_pos failed

theorem checkAnticoll_of_not_ok {w : WorkRegs} (failed : w.wxout ≠ .ok) : checkAnticoll w = (.noUidFound, w.wcause) :=
  if_pos failed

theorem execRequest_of_post (ph : s.work.phase = .post) (mode : Byte) :
    execRequest mode s = .next (commitRequest s) := by
  simp only [execRequest, ph]

theorem execAnticoll_of_post (ph : s.work.phase = .post) : execAnticoll s = .next (commitAnticoll s) := by
  simp only [execAnticoll, ph]

theorem commitRequest_of_protocolError (failed : s.work.wxout = .protocolError) :
    commitRequest s = commit
      { exchangeFields s.work.wcause s with pres := .noCardFound, seq := .idle, cardtype := 0 } s := by
  rw [commitRequest, validateRequest_of_protocolError failed]
  rfl

theorem commitAnticoll_of_protocolError (failed : s.work.wxout = .protocolError) :
    commitAnticoll s = commit
      { exchangeFields s.work.wcause s with pres := .noUidFound, seq := .idle, uid := .replicate 4 0 } s := by
  rw [commitAnticoll, checkAnticoll_of_not_ok (by rw [failed]; exact nofun)]
  rfl

/-- What a failed exchange commits: its own cause, and the fields that depend on the operation. -/
def failureFields (pres : PRes) (seq : Seq) (cardtype : Byte) (uid : Vector Byte 4) (s : State) : HostRegs :=
  { exchangeFields s.work.wcause s with pres := pres, seq := seq, cardtype := cardtype, uid := uid }

/-- The commit of every operation whose exchange ended as ProtocolError. -/
theorem exec_commit_failure (hx : runsExchange i = true) (ph : s.work.phase = endPhase i)
    (failed : s.work.wxout = .protocolError) :
    ∃ pres seq cardtype uid, exec i s = .next (commit (failureFields pres seq cardtype uid s) s)
      ∧ ReportsFailure i s.host (failureFields pres seq cardtype uid s) := by
  cases i with
  | idle | transceive | authent | softReset | receive | transmit | calcCrc =>
    exact ⟨_, _, _, _, execExchange_of_xchgEnd ph _ _, by simp, nofun, fun _ => ⟨rfl, rfl, rfl, rfl⟩⟩
  | reqIdl | reqAll =>
    exact ⟨_, _, _, _, (execRequest_of_post ph _).trans (congrArg _ (commitRequest_of_protocolError failed)),
      fun _ => ⟨rfl, rfl, rfl, rfl⟩, nofun, nofun⟩
  | anticoll =>
    exact ⟨_, _, _, _, (execAnticoll_of_post ph).trans (congrArg _ (commitAnticoll_of_protocolError failed)),
      by simp, fun _ => ⟨rfl, rfl, rfl, rfl⟩, nofun⟩
  | setBits | clearBits => cases hx

/-- An operation left to itself whose exchange fails, from the GO to the commit. -/
theorem Issued.run_failure (issued : Issued i s) (hx : runsExchange i = true) {cmd l : Byte} {wpay : Vector Byte 16}
    {pre : List Txn} {m n : Nat} {w : State} (begins : run m s = .next (begun cmd l wpay pre s))
    (exchange : ExchangeRun (endPhase i) n (begun cmd l wpay pre s) w) (ph : w.work.phase = endPhase i)
    (failed : w.work.wxout = .protocolError) :
    ∃ pres seq cardtype uid, run (m + (n + 1)) s = .next (commit (failureFields pres seq cardtype uid w) w)
      ∧ ReportsFailure i w.host (failureFields pres seq cardtype uid w) := by
  obtain ⟨pres, seq, cardtype, uid, commits, reports⟩ := exec_commit_failure hx ph failed
  have alone := issued.undisturbed_begun cmd l wpay pre
  exact ⟨pres, seq, cardtype, uid, run_whole hx begins alone exchange (ph ▸ endPhase_ne_idle i) commits, reports⟩

end Failure

/-! ## The commit of EXEC -/

section Exec
variable {i : Instr} {s w : State} {cmd l : Byte}

theorem endPhase_of_execForm {p : Params} (form : execForm p i = some (cmd, l)) : endPhase i = .xchgEnd := by
  cases i with
  | reqIdl | reqAll | anticoll | setBits | clearBits => cases form
  | _ => rfl

/-- An EXEC left to itself, from the GO to the commit. -/
theorem Issued.run_exec (issued : Issued i s) (form : execForm s.params i = some (cmd, l)) {wpay : Vector Byte 16}
    {n : Nat} (begins : run 1 s = .next (begun cmd l wpay [] s))
    (exchange : ExchangeRun .xchgEnd n (begun cmd l wpay [] s) w) (ph : w.work.phase = .xchgEnd)
    (params : w.params = s.params) : run (1 + (n + 1)) s = .next (commitExec w) := by
  have hx := runsExchange_of_exchangeForm (exchangeForm_of_execForm form)
  have alone := issued.undisturbed_begun cmd l wpay []
  rw [← endPhase_of_execForm form] at exchange
  exact run_whole hx begins alone exchange (ph ▸ nofun)
    ((exec_of_execForm (params ▸ form)).trans (execExchange_of_xchgEnd ph cmd l))

end Exec

/-! ## The statements about whole operations -/

/-- `begun` at the start of its poll, after the transactions `armed` of the exchange. -/
def atPoll (cmd l : Byte) (wpay : Vector Byte 16) (pre armed : List Txn) (t : Byte) (rest : List Byte) (s : State) :
    State :=
  { begun cmd l wpay pre s with
    answers := rest, trace := armed ++ (pre ++ s.trace)
    work := { (begun cmd l wpay pre s).work with t := t, k := l.setWidth 5, i := 2000, phase := .xchg .poll } }

/-- Every operation with an exchange comes to its poll, after the transactions that R148 counts. -/
theorem Issued.comes_to_poll {i : Instr} {s : State} {cmd l : Byte} (issued : Issued i s)
    (form : exchangeForm s.params i = some (cmd, l)) {arm rest : List Byte} (answers : s.answers = arm ++ rest)
    (arm_length : arm.length = if cmd = 0x0C then 3 else 2) :
    ∃ wpay pre armed t, run (1 + pre.length) s = .next (begun cmd l wpay pre s)
      ∧ ExchangeRun (endPhase i) armed.length (begun cmd l wpay pre s) (atPoll cmd l wpay pre armed t rest s)
      ∧ (armed ++ pre).length
          = (if execForm s.params i = some (cmd, l) then 0 else 1) + (if cmd = 0x0C then 9 else 7) + l.toNat := by
  obtain ⟨wpay, pre, begins, pre_length⟩ := issued.run_begin form
  obtain ⟨t, armed, toPoll, armed_length⟩ :=
    exchangeRun_toPoll (s := begun cmd l wpay pre s) rfl (endPhase i) answers arm_length
  refine ⟨wpay, pre, armed, t, begins, toPoll, ?_⟩
  change armed.length = (if cmd = 0x0C then 9 else 7) + (l.setWidth 5).toNat at armed_length
  rw [(setWidth_payloadLength l (issued.payload_fits form)).1] at armed_length
  rw [List.length_append, armed_length, pre_length]
  omega

/-- Settles O51: the arming part, a poll that uses up its budget, and the commit of a failure. -/
theorem silentPcdTimesOut : Obligations.SilentPcdTimesOut := by
  intro s v i cmd l arm misses last rest legal form idle not_busy next_move bit_set decodes arm_length answers length
    no_completion
  have issued : Issued i s := ⟨legal, idle, not_busy, ⟨v, next_move, bit_set⟩, decodes⟩
  rw [List.append_assoc] at answers
  obtain ⟨wpay, pre, armed, t, begins, toPoll, before_poll⟩ := issued.comes_to_poll form answers arm_length
  have exchange := toPoll.trans
    (exchangeRun_pollTimeout (misses := misses) rfl rfl no_completion (congrArg (· + 1) length))
  obtain ⟨pres, seq, cardtype, uid, ran, reports⟩ :=
    issued.run_failure (runsExchange_of_exchangeForm form) begins exchange rfl rfl
  refine ⟨_, _, ran, rfl, rfl, rfl, rfl, rfl, rfl, rfl, rfl, rfl, rfl, reports.request, reports.anticoll, reports.exec,
    ?_⟩
  calc ((readTrace s 0x04 (misses ++ [last])).reverse ++ (armed ++ (pre ++ s.trace))).length
    _ = (misses.length + 1) + ((armed ++ pre).length + s.trace.length) := by
      simp only [readTrace, List.length_append, List.length_reverse, List.length_map, List.length_singleton]
      omega
    _ = _ := by rw [before_poll, length]; omega

/-- Settles O54: the arming part, a poll that completes, an error bit in ErrorReg, and the commit of a failure. -/
theorem chipErrorEndsExchange : Obligations.ChipErrorEndsExchange := by
  intro s v i cmd l arm misses n e rest legal form idle not_busy next_move bit_set decodes arm_length answers
    no_completion completes left error_bit
  have issued : Issued i s := ⟨legal, idle, not_busy, ⟨v, next_move, bit_set⟩, decodes⟩
  rw [List.append_assoc] at answers
  obtain ⟨wpay, pre, armed, t, begins, toPoll, before_poll⟩ := issued.comes_to_poll form answers arm_length
  have polls := toPoll.trans (exchangeRun_pollDone (misses := misses) rfl rfl no_completion completes left)
  have exchange := polls.trans
    (exchangeRun_error_end rfl rfl (classify_chipError error_bit) fun reads => reads.1 rfl)
  obtain ⟨pres, seq, cardtype, uid, ran, reports⟩ :=
    issued.run_failure (runsExchange_of_exchangeForm form) begins exchange rfl rfl
  refine ⟨_, _, armed ++ pre, ran, rfl, rfl, rfl, rfl, rfl, rfl, rfl, rfl, rfl, rfl, rfl, rfl, rfl, rfl,
    reports.request, reports.anticoll, reports.exec, before_poll, ?_⟩
  change Txn.rd s.params.busAddr 0x06 e
    :: ((readTrace s 0x04 (misses ++ [n])).reverse ++ (armed ++ (pre ++ s.trace))) = _
  simp only [readTrace, List.cons_append, List.append_assoc]

/-- A poll of a Transceive shows no completion by its WAITIRQ and the timer bit, taken as one mask (R121, R127). -/
theorem no_completion_transceive_iff (x : Byte) : x &&& 0x31 = 0 ↔ x.getLsbD 0 = false ∧ x &&& 0x30 = 0 := by
  revert x; decide

/-- The outcome of a Transceive with no error bit (R132). -/
theorem classify_transceive {e : Byte} (no_error : e &&& 0x1B = 0) (n : Byte) :
    classify e n 0x77 = if n &&& 0x01 = 0 then (.ok, .none) else (.noCardDetected, .noCard) := by
  have timer : n &&& 0x77 &&& 0x01 = n &&& 0x01 := BitVec.and_assoc n 0x77 0x01
  split_ifs with no_timer
  · exact classify_ok no_error (timer.trans no_timer)
  · exact classify_noCard no_error (by rwa [timer])

/-- Settles O52: the arming part of Transceive, a poll that completes, the error check, the read-back, and EXEC's
commit. -/
theorem transceiveReadsResponse : Obligations.TransceiveReadsResponse := by
  intro s v l a b f n e lvl c misses data rest legal idle not_busy next_move bit_set decodes answers no_completion
    completes left no_error data_length
  have issued : Issued (.transceive l) s := ⟨legal, idle, not_busy, ⟨v, next_move, bit_set⟩, decodes⟩
  have wlen : (l.setWidth 5).toNat = l.toNat := (setWidth_payloadLength l (issued.payload_fits rfl)).1
  have none_completes : NoneCompletes 0x30 misses := fun x hx =>
    (no_completion_transceive_iff x).mp (no_completion x hx)
  have one_completes : n.getLsbD 0 = true ∨ n &&& 0x30 ≠ 0 := by
    rw [Ne, no_completion_transceive_iff, not_and_or, Bool.not_eq_false] at completes
    exact completes
  have count : (clampCount lvl).toNat = data.length := (clampCount_cases lvl).trans data_length.symm
  have nonempty : data ≠ [] := List.length_pos_iff.mp (by rw [← count, clampCount_toNat]; omega)
  obtain ⟨wpay, begins⟩ : ∃ wpay, run 1 s = .next (begun cmdTransceive l wpay [] s) := ⟨_, issued.run_begin_exec rfl⟩
  have toPoll := exchangeRun_toPoll_transceive (after := .xchgEnd) (s := begun cmdTransceive l wpay [] s) rfl rfl
    answers
  have polls := toPoll.trans (exchangeRun_pollDone (misses := misses) rfl rfl none_completes one_completes left)
  have checks := polls.trans
    (exchangeRun_error_readBack rfl rfl (classify_transceive no_error n) ⟨by split_ifs <;> exact nofun, rfl⟩)
  have reads := (checks.trans (exchangeRun_readBack_of_answers rfl rfl)).trans
    (exchangeRun_fetch rfl rfl rfl nonempty ((Nat.zero_add _).trans count.symm))
  have ran := issued.run_exec rfl begins reads rfl rfl
  have steps : misses.length + l.toNat + data.length + 15
      = 1 + ((l.setWidth 5).toNat + 9 + (misses.length + 1) + 1 + 2 + data.length + 1) := by omega
  rw [steps]
  refine ⟨_, ran, rfl, rfl, rfl, rfl, rfl, rfl, ?_, ?_, ?_, wbits_toInt lvl c,
    fun _ => byteAt_fillBytes_replicate data, rfl, rfl, rfl, rfl, rfl, rfl, ?_⟩
  · change (if _ then _ else _ : XOut × Cause).1 = _
    split_ifs <;> rfl
  · change (if _ then _ else _ : XOut × Cause).2 = _
    split_ifs <;> rfl
  · change ((clampCount lvl).setWidth 8).toNat = _
    rw [BitVec.toNat_setWidth_of_le (by decide), count]
  · change ((readTrace s 0x09 data).reverse ++ _ :: _ :: _ :: ((readTrace s 0x04 (misses ++ [n])).reverse
      ++ _ :: _ :: _ :: (armTrace (begun cmdTransceive l wpay [] s) a b ++ ([] ++ s.trace)))).length = _
    have armed : (armTrace (begun cmdTransceive l wpay [] s) a b).length = l.toNat + 6 :=
      (length_armTrace _ a b).trans (congrArg (· + 6) wlen)
    simp only [readTrace, List.length_append, List.length_cons, List.length_reverse, List.length_map, List.length_nil,
      armed]
    omega

/-- The write of ComIEnReg for a command other than Transceive (R121, R122). -/
theorem irqEnableMask_or_globalEnableBit {cmd : Byte} (not_transceive : cmd ≠ cmdTransceive) :
    irqEnableMask cmd ||| 0x80 = if cmd = 0x0E then 0x92 else 0x80 := by
  change _ = if cmd = cmdAuthent then _ else _
  rw [irqEnableMask, if_neg not_transceive]
  split_ifs <;> rfl

/-- The outcome of a command other than Transceive: ErrorReg alone decides (R131, R132). -/
theorem classify_other {cmd : Byte} (not_transceive : cmd ≠ cmdTransceive) (e n : Byte) :
    classify e n (irqEnableMask cmd)
      = (if e &&& 0x1B = 0 then .ok else .protocolError, if e &&& 0x1B = 0 then .none else .chipError) := by
  split_ifs with no_error
  · exact classify_ok no_error (and_irqEnableMask_and_timerBit not_transceive n)
  · exact classify_chipError no_error

/-- The payload bytes an EXEC writes are those the host had stored (R95, R124). -/
theorem payloadWrites_begun (s : State) (cmd l : Byte) (fits : l.toNat ≤ 16) :
    payloadWrites (begun cmd l (latchPayload s.host.payload s.work.wpay l.toNat) [] s) 0 l.toNat
      = (List.range l.toNat).map fun k => .wr s.params.busAddr 0x09 (byteAt s.host.payload k) := by
  rw [payloadWrites, ← List.range_eq_range']
  refine List.map_congr_left fun k hk => ?_
  have k_lt := List.mem_range.mp hk
  exact congrArg _ ((byteAt_latchPayload _ _ _ k).trans (if_pos ⟨k_lt, by omega⟩))

/-- Settles O53: the arming part of another command, a poll that completes, the error check, which ends the exchange,
and EXEC's commit. -/
theorem otherCommandsReadNothingBack : Obligations.OtherCommandsReadNothingBack := by
  intro s v i cmd l a b n e misses rest legal form not_transceive idle not_busy next_move bit_set decodes answers
    no_completion completes left
  have issued : Issued i s := ⟨legal, idle, not_busy, ⟨v, next_move, bit_set⟩, decodes⟩
  have fits := issued.payload_fits (exchangeForm_of_execForm form)
  have wlen : (l.setWidth 5).toNat = l.toNat := (setWidth_payloadLength l fits).1
  have begins := issued.run_begin_exec form
  have toPoll := exchangeRun_toPoll_other (after := .xchgEnd)
    (s := begun cmd l (latchPayload s.host.payload s.work.wpay l.toNat) [] s) rfl not_transceive answers
  have polls := toPoll.trans (exchangeRun_pollDone (misses := misses) rfl rfl no_completion completes left)
  have ends := polls.trans
    (exchangeRun_error_end rfl rfl (classify_other not_transceive e n) fun reads => not_transceive reads.2)
  have ran := issued.run_exec form begins ends rfl rfl
  have steps : misses.length + l.toNat + 11 = 1 + ((l.setWidth 5).toNat + 7 + (misses.length + 1) + 1 + 1) := by omega
  rw [steps]
  refine ⟨_, ran, rfl, rfl, rfl, rfl, ?_⟩
  have armed : armTrace (begun cmd l (latchPayload s.host.payload s.work.wpay l.toNat) [] s) a b
      = ((List.range l.toNat).map fun k => .wr s.params.busAddr 0x09 (byteAt s.host.payload k)).reverse
        ++ [.wr s.params.busAddr 0x01 0x00, .wr s.params.busAddr 0x0A (b ||| 0x80), .rd s.params.busAddr 0x0A b,
          .wr s.params.busAddr 0x04 (a &&& 0x7F), .rd s.params.busAddr 0x04 a,
          .wr s.params.busAddr 0x02 (if cmd = 0x0E then 0x92 else 0x80)] := by
    rw [← payloadWrites_begun s cmd l fits, ← irqEnableMask_or_globalEnableBit not_transceive, ← wlen]
    rfl
  change (.rd s.params.busAddr 0x06 e :: ((readTrace s 0x04 (misses ++ [n])).reverse
    ++ .wr s.params.busAddr 0x01 cmd :: (armTrace _ a b ++ ([] ++ s.trace)))).reverse = _
  rw [armed]
  simp [readTrace, busTrace]

end Sys2Proof.Machine
end

section
/-! Proofs about the end of every operation (spec/41_executor.md R149): a count of the transactions that are left, which
every step of an operation left to itself makes smaller, up to the commit. -/

namespace Sys2Proof.Machine

/-! ## How many transactions are left -/

/-- An upper bound of the transactions from a position of the exchange to its end (R148): 16 payload bytes, 1999 polls
and 16 response bytes at most, or 2000 polls and none. -/
def exchangeLeft (w : WorkRegs) : XPos → Nat
  | .enable => w.wlen.toNat + 2027
  | .irqRead => w.wlen.toNat + 2026
  | .irqWrite => w.wlen.toNat + 2025
  | .flushRead => w.wlen.toNat + 2024
  | .flushWrite => w.wlen.toNat + 2023
  | .loadIdle => w.wlen.toNat + 2022
  | .push => (w.wlen.toNat - w.k.toNat) + 2021
  | .start => 2021
  | .sendRead => 2020
  | .sendWrite => 2019
  | .poll => w.i.toNat + 18
  | .error => 19
  | .level => 18
  | .control => 17
  | .fetch => w.wcount.toNat - w.k.toNat

/-- An upper bound of the transactions from a phase to the commit. -/
def transactionsLeft (w : WorkRegs) : Nat :=
  match w.phase with
  | .protoPre => 2030
  | .xchg p => exchangeLeft w p
  | .rmwRead => 2
  | .rmwWrite => 1
  | .idle | .xchgEnd | .post | .rmwEnd => 0

theorem exchangeLeft_le {w : WorkRegs} {p : XPos} (wlen : w.wlen.toNat ≤ 16) (wcount : w.wcount.toNat ≤ 16)
    (position : positionOk w p = true) : exchangeLeft w p ≤ 2043 := by
  cases p with
  | poll =>
    obtain ⟨-, left⟩ := of_decide_eq_true position
    exact (Nat.add_le_add_right left 18).trans (by decide)
  | enable | irqRead | irqWrite | flushRead | flushWrite | loadIdle | push | fetch =>
    simp only [exchangeLeft]
    omega
  | start | sendRead | sendWrite | error | level | control => simp [exchangeLeft]

/-- R148's greatest count. -/
theorem State.Inv.transactionsLeft_le {s : State} (inv : s.Inv) : transactionsLeft s.work ≤ 2043 := by
  cases ph : s.work.phase with
  | xchg p =>
    obtain ⟨i, hd, -⟩ := latchedOk_decode inv.latched (by rw [ph]; exact nofun)
    obtain ⟨-, -, ⟨-, -, wlen, wcount, -⟩, position⟩ := (latchedOk_xchg ph hd).mp inv.latched
    rw [transactionsLeft, ph]
    exact exchangeLeft_le wlen wcount position
  | idle | protoPre | xchgEnd | rmwRead | rmwWrite | rmwEnd | post =>
    simp [transactionsLeft, ph]

/-- Every position of the exchange leaves fewer transactions than it found. -/
theorem transactionsLeft_exchangeStep {after : Phase} {p : XPos} {s : State} (ends : after = .xchgEnd ∨ after = .post)
    (ph : s.work.phase = .xchg p) (position : positionOk s.work p = true) :
    transactionsLeft (exchangeStep after p s).work < transactionsLeft s.work := by
  have before : transactionsLeft s.work = exchangeLeft s.work p := by rw [transactionsLeft, ph]
  have after_end (w : WorkRegs) (h : w.phase = after) : transactionsLeft w = 0 := by
    obtain rfl | rfl := ends <;> rw [transactionsLeft, h]
  rw [before]
  cases p with
  | enable | irqRead | irqWrite | flushRead | flushWrite | sendRead | level => exact Nat.lt_succ_self _
  | sendWrite => exact (by decide : 2018 < 2019)
  | loadIdle =>
    by_cases empty : s.work.wlen = 0
    · rw [exchangeStep, xLoadIdle_empty s empty]
      exact Nat.lt_of_lt_of_le (by decide : 2021 < 2022) (Nat.le_add_left _ _)
    · rw [exchangeStep, xLoadIdle_push s empty]
      exact Nat.lt_succ_self _
  | push =>
    simp only [positionOk, decide_eq_true_eq] at position
    by_cases more : s.work.k.toNat + 1 < s.work.wlen.toNat
    · rw [exchangeStep, xPush_more s more]
      simp only [transactionsLeft, exchangeLeft, toNat_succ5 (show s.work.k.toNat + 1 < 32 by omega)]
      omega
    · rw [exchangeStep, xPush_last s more]
      simp only [transactionsLeft, exchangeLeft]
      omega
  | start =>
    by_cases transceive : s.work.cmd = cmdTransceive
    · rw [exchangeStep, xStart_transceive s transceive]
      exact Nat.lt_succ_self _
    · rw [exchangeStep, xStart_other s transceive]
      exact (by decide : 2018 < 2021)
  | poll =>
    simp only [positionOk, decide_eq_true_eq] at position
    by_cases last : s.work.i - 1 = 0
    · rw [exchangeStep, xPoll_timeout after s last, after_end _ rfl]
      exact Nat.succ_pos _
    · have i_pred := toNat_pred position.1 last
      cases completed : pollDone (pcdAnswer (regAddr .comIrq) s) s.work.waitirq with
      | true =>
        rw [exchangeStep, xPoll_done after s last completed]
        simp only [transactionsLeft, exchangeLeft]
        omega
      | false =>
        rw [exchangeStep, xPoll_again after s last completed]
        simp only [transactionsLeft, exchangeLeft]
        omega
  | error =>
    by_cases reads : (classify (pcdAnswer (regAddr .error) s) s.work.nirq s.work.irqen).1 ≠ .protocolError
        ∧ s.work.cmd = cmdTransceive
    · rw [exchangeStep, xError_readBack after s _ rfl reads]
      exact Nat.lt_succ_self _
    · rw [exchangeStep, xError_end after s _ rfl reads, after_end _ rfl]
      exact Nat.succ_pos _
  | control =>
    have count : (clampCount s.work.lvl).toNat < 17 := by rw [clampCount_toNat]; omega
    exact Nat.lt_of_le_of_lt (Nat.sub_le _ _) count
  | fetch =>
    simp only [positionOk, decide_eq_true_eq] at position
    by_cases more : s.work.k.toNat + 1 < s.work.wcount.toNat
    · rw [exchangeStep, xFetch_more after s more]
      simp only [transactionsLeft, exchangeLeft, toNat_succ5 (show s.work.k.toNat + 1 < 32 by omega)]
      omega
    · rw [exchangeStep, xFetch_last after s more, after_end _ rfl]
      simp only [exchangeLeft]
      omega

/-! ## Every step but the commit uses up one -/

/-- A step of an operation in flight that does not end it. -/
structure GoesOn (s t : State) : Prop where
  in_flight : t.work.phase ≠ .idle
  no_move : t.moves = s.moves
  fewer : transactionsLeft t.work < transactionsLeft s.work
  trace : t.trace.length = s.trace.length + 1

theorem exchangeStep_goesOn {after : Phase} {p : XPos} {s : State} (ends : after = .xchgEnd ∨ after = .post)
    (ph : s.work.phase = .xchg p) (position : positionOk s.work p = true) : GoesOn s (exchangeStep after p s) := by
  have frame := exchangeStep_frame after p s
  obtain ⟨x, trace, -⟩ := frame.trace
  refine ⟨?_, frame.moves, transactionsLeft_exchangeStep ends ph position, congrArg List.length trace⟩
  obtain ⟨q, ph'⟩ | ph' := exchangeStep_phase after p s <;> rw [ph']
  · exact nofun
  · obtain rfl | rfl := ends <;> exact nofun

/-- A step of an operation in flight goes on with fewer transactions left, or is the commit. -/
theorem ExecStep.goesOn_or_commit {i : Instr} {s t : State} (h : ExecStep i s t) (inv : s.Inv)
    (in_flight : s.work.phase ≠ .idle) (hd : decode s.params s.work.opl = .legal i) :
    GoesOn s t ∨ ∃ r, t = commit r s := by
  have position {p : XPos} (ph : s.work.phase = .xchg p) : positionOk s.work p = true := by
    obtain ⟨-, -, -, position⟩ := (latchedOk_xchg ph hd).mp inv.latched
    exact position
  have before {n : Nat} {ph : Phase} (at_ph : s.work.phase = ph)
      (fewer : n < transactionsLeft { s.work with phase := ph }) : n < transactionsLeft s.work := by
    subst at_ph
    exact fewer
  cases h with
  | acceptExec ph | rejectLength ph | acceptProtocol ph | acceptMask ph => exact absurd ph in_flight
  | requestPre ph => exact .inl ⟨nofun, rfl, before ph (by decide : 2028 < 2030), rfl⟩
  | anticollPre ph => exact .inl ⟨nofun, rfl, before ph (by decide : 2029 < 2030), rfl⟩
  | maskRead ph => exact .inl ⟨nofun, rfl, before ph (by decide : 1 < 2), rfl⟩
  | setWrite ph | clearWrite ph => exact .inl ⟨nofun, rfl, before ph (by decide : 0 < 1), rfl⟩
  | exchangeExec ph => exact .inl (exchangeStep_goesOn (.inl rfl) ph (position ph))
  | exchangeProtocol ph => exact .inl (exchangeStep_goesOn (.inr rfl) ph (position ph))
  | commitExec | commitRequest | commitAnticoll | maskCommit => exact .inr ⟨_, rfl⟩

/-- In flight and left to itself, the machine takes a step, which goes on or commits. -/
theorem State.Inv.step_goesOn_or_commit {s : State} (inv : s.Inv) (in_flight : s.work.phase ≠ .idle)
    (no_move : s.moves = []) : ∃ t, step s = .next t ∧ (GoesOn s t ∨ ∃ r, t = Machine.commit r s) := by
  obtain ⟨i, hd, owns⟩ := latchedOk_decode inv.latched in_flight
  obtain ⟨t, he⟩ := (operationsGoOnInTheirPhases i s).1 owns
  have alone : Undisturbed i s := ⟨inv.legal, no_move, hd⟩
  exact ⟨t, (alone.step_eq in_flight).trans he, (exec_step he).goesOn_or_commit inv in_flight hd⟩

/-- An operation left to itself makes no more transactions than are left, and commits. -/
theorem State.Inv.run_to_commit {s : State} (inv : s.Inv) (in_flight : s.work.phase ≠ .idle) (no_move : s.moves = []) :
    ∃ n t, n ≤ transactionsLeft s.work + 1 ∧ run n s = .next t ∧ t.host.busy = false ∧ t.host.done = true
      ∧ t.work.phase = .idle ∧ t.trace.length ≤ s.trace.length + transactionsLeft s.work := by
  induction left : transactionsLeft s.work using Nat.strong_induction_on generalizing s with
  | _ left_s ih =>
    subst left
    obtain ⟨t, step_t, goesOn | ⟨r, rfl⟩⟩ := inv.step_goesOn_or_commit in_flight no_move
    · obtain ⟨in_flight', no_move', fewer, trace⟩ := goesOn
      obtain ⟨n, u, steps, ran, busy, done, idle, length⟩ :=
        ih _ fewer (everyStepKeepsInvariant s t inv step_t) in_flight' (no_move'.trans no_move) rfl
      exact ⟨n + 1, u, by omega, (run_succ step_t).trans ran, busy, done, idle, by omega⟩
    · exact ⟨1, _, Nat.le_add_left 1 _, run_succ step_t, rfl, rfl, rfl, Nat.le_add_right _ _⟩

/-- BUSY is an operation in flight (R41). -/
theorem State.Inv.in_flight_of_busy {s : State} (inv : s.Inv) (busy : s.host.busy = true) : s.work.phase ≠ .idle := by
  obtain ⟨-, ⟨busy_iff, -⟩, -⟩ := inv
  exact of_decide_eq_true (busy_iff.symm.trans busy)

/-- Settles O47: BUSY means an operation in flight, and at most 2043 transactions are left. -/
theorem everyOperationEnds : Obligations.EveryOperationEnds := by
  intro s inv busy no_move
  have left := inv.transactionsLeft_le
  obtain ⟨n, t, steps, ran, busy', done, idle, trace⟩ := inv.run_to_commit (inv.in_flight_of_busy busy) no_move
  exact ⟨n, t, by omega, ran, busy', done, idle, by omega⟩

end Sys2Proof.Machine
end

section
/-! Proofs about the exchange of a Transceive that completes without an error (spec/41_executor.md R120 to R137), from
its first position to its end, whichever operation runs it. -/

namespace Sys2Proof.Machine

/-- What the PCD answers to the reads of a Transceive, in the order of time: `a`, `b` and `f` to the read-modify-writes
of ComIrqReg, FIFOLevelReg and BitFramingReg, then the polls, ErrorReg, FIFOLevelReg, ControlReg and FIFODataReg. -/
structure Response where
  a      : Byte
  b      : Byte
  f      : Byte
  misses : List Byte
  n      : Byte
  e      : Byte
  lvl    : Byte
  c      : Byte
  data   : List Byte

namespace Response

/-- The answers laid out before `rest`. -/
def before (r : Response) (rest : List Byte) : List Byte :=
  r.a :: r.b :: r.f :: (r.misses ++ r.n :: r.e :: r.lvl :: r.c :: (r.data ++ rest))

/-- Completion within the budget at the first read that shows any, no error bit, and as many response bytes as are
read (R127, R131, R135). -/
structure Completes (r : Response) : Prop where
  no_completion : ∀ x ∈ r.misses, x &&& 0x31 = 0
  completion : r.n &&& 0x31 ≠ 0
  left : r.misses.length + 1 < 2000
  no_error : r.e &&& 0x1B = 0
  count : (clampCount r.lvl).toNat = r.data.length

/-- `begun` of a Transceive at the end of its exchange, the answers `r` read and `rest` left over. -/
def received (r : Response) (after : Phase) (l : Byte) (wpay : Vector Byte 16) (pre : List Txn) (rest : List Byte)
    (s : State) : State :=
  { begun cmdTransceive l wpay pre s with
    answers := rest
    trace := (readTrace s 0x09 r.data).reverse ++ .rd s.params.busAddr 0x0C r.c :: .rd s.params.busAddr 0x0A r.lvl
      :: .rd s.params.busAddr 0x06 r.e :: ((readTrace s 0x04 (r.misses ++ [r.n])).reverse
      ++ .wr s.params.busAddr 0x0D (r.f ||| 0x80) :: .rd s.params.busAddr 0x0D r.f :: .wr s.params.busAddr 0x01 0x0C
      :: (armTrace (begun cmdTransceive l wpay pre s) r.a r.b ++ (pre ++ s.trace)))
    work := { (begun cmdTransceive l wpay pre s).work with
      t := r.f, i := 2000 - BitVec.ofNat 11 (r.misses.length + 1), nirq := r.n, errv := r.e
      wxout := if r.n &&& 0x01 = 0 then .ok else .noCardDetected
      wcause := if r.n &&& 0x01 = 0 then .none else .noCard
      lvl := r.lvl, lb := r.c.extractLsb' 0 3, wbits := BitVec.ofInt 16 (backLen r.lvl (r.c.extractLsb' 0 3))
      wcount := clampCount r.lvl, wdata := fillBytes (.replicate 16 0) 0 r.data, k := clampCount r.lvl
      phase := after } }

/-- The whole exchange: the arming part, a poll that completes, the error check, and the read-back. -/
theorem Completes.exchangeRun {r : Response} (completes : r.Completes) (after : Phase) {s : State} {l : Byte}
    (fits : l.toNat ≤ 16) (wpay : Vector Byte 16) (pre : List Txn) {rest : List Byte}
    (answers : s.answers = r.before rest) :
    ExchangeRun after (l.toNat + r.misses.length + r.data.length + 13) (begun cmdTransceive l wpay pre s)
      (r.received after l wpay pre rest s) := by
  obtain ⟨no_completion, completion, left, no_error, count⟩ := completes
  have none_completes : NoneCompletes 0x30 r.misses := fun x hx =>
    (no_completion_transceive_iff x).mp (no_completion x hx)
  have one_completes : r.n.getLsbD 0 = true ∨ r.n &&& 0x30 ≠ 0 := by
    rwa [Ne, no_completion_transceive_iff, not_and_or, Bool.not_eq_false] at completion
  have nonempty : r.data ≠ [] := List.length_pos_iff.mp (by rw [← count, clampCount_toNat]; omega)
  have outcome : classify r.e r.n 0x77
      = (if r.n &&& 0x01 = 0 then .ok else .noCardDetected, if r.n &&& 0x01 = 0 then .none else .noCard) := by
    rw [classify_transceive no_error]
    split_ifs <;> rfl
  have toPoll := exchangeRun_toPoll_transceive (after := after) (s := begun cmdTransceive l wpay pre s) rfl rfl answers
  have polls := toPoll.trans (exchangeRun_pollDone (misses := r.misses) rfl rfl none_completes one_completes left)
  have checks := polls.trans
    (exchangeRun_error_readBack rfl rfl outcome ⟨by dsimp only; split_ifs <;> exact nofun, rfl⟩)
  have reads := (checks.trans (exchangeRun_readBack_of_answers rfl rfl)).trans
    (exchangeRun_fetch rfl rfl rfl nonempty ((Nat.zero_add _).trans count.symm))
  have wlen : (l.setWidth 5).toNat = l.toNat := (setWidth_payloadLength l fits).1
  have transactions : l.toNat + r.misses.length + r.data.length + 13
      = (l.setWidth 5).toNat + 9 + (r.misses.length + 1) + 1 + 2 + r.data.length := by omega
  rw [transactions]
  exact reads

section Received
variable {r : Response} {after : Phase} {l : Byte} {wpay : Vector Byte 16} {pre : List Txn} {rest : List Byte}
  {s : State}

/-- The outcome is Ok or NoCardDetected (R132). -/
theorem received_wxout_ne_protocolError : (r.received after l wpay pre rest s).work.wxout ≠ .protocolError := by
  dsimp only [received]
  split_ifs <;> exact nofun

/-- The transactions in the order of time (R148). -/
theorem busTrace_received :
    busTrace (r.received after l wpay pre rest s) = busTrace s ++ pre.reverse
      ++ [.wr s.params.busAddr 0x02 0xF7, .rd s.params.busAddr 0x04 r.a, .wr s.params.busAddr 0x04 (r.a &&& 0x7F),
          .rd s.params.busAddr 0x0A r.b, .wr s.params.busAddr 0x0A (r.b ||| 0x80), .wr s.params.busAddr 0x01 0x00]
      ++ payloadWrites (begun cmdTransceive l wpay pre s) 0 (l.setWidth 5).toNat
      ++ [.wr s.params.busAddr 0x01 0x0C, .rd s.params.busAddr 0x0D r.f, .wr s.params.busAddr 0x0D (r.f ||| 0x80)]
      ++ readTrace s 0x04 (r.misses ++ [r.n])
      ++ [.rd s.params.busAddr 0x06 r.e, .rd s.params.busAddr 0x0A r.lvl, .rd s.params.busAddr 0x0C r.c]
      ++ readTrace s 0x09 r.data := by
  simp [busTrace, received, armTrace, flushTrace, begun]
  rfl

end Received

end Response

end Sys2Proof.Machine
end

section
/-! Proofs about REQUEST (spec/42_request.md): its steps before and after the exchange, which ANTICOLL shares in part,
and the run from the GO to the commit. -/

namespace Sys2Proof.Machine

section Request
variable {i : Instr} {s : State} {mode : Byte}

/-! ## The two variants -/

/-- The mode bytes of the variants (R166, R167). -/
theorem requestForm_of_mode (variants : (i = .reqIdl ∧ mode = 0x26) ∨ (i = .reqAll ∧ mode = 0x52)) :
    requestForm i = some mode := by
  obtain ⟨rfl, rfl⟩ | ⟨rfl, rfl⟩ := variants <;> rfl

theorem exec_of_requestForm (form : requestForm i = some mode) : exec i s = execRequest mode s := by
  cases i with
  | reqIdl | reqAll => cases form; rfl
  | _ => cases form

theorem endPhase_of_requestForm (form : requestForm i = some mode) : endPhase i = .post := by
  cases i with
  | reqIdl | reqAll => rfl
  | _ => cases form

/-! ## Before the exchange -/

/-- A REQUEST comes to its exchange in two steps, with the mode as its frame (R161, R162). -/
theorem Issued.run_begin_request (issued : Issued i s) (form : requestForm i = some mode) :
    run 2 s = .next
      (begun cmdTransceive 1 (setByte s.work.wpay 0 mode) [.wr s.params.busAddr 0x0D 0x07] s) :=
  issued.run_begin_protocol (fun _ idle => (exec_of_requestForm form).trans (execRequest_of_idle idle mode))
    fun _ ph => (exec_of_requestForm form).trans (execRequest_of_protoPre ph mode)

end Request

/-- Settles O34: the step before the exchange is `requestPre` or `anticollPre`. -/
theorem protocolFramesBeforeExchange : Obligations.ProtocolFramesBeforeExchange := by
  refine fun s ph => ⟨fun i mode variants => ?_, ?_⟩
  · have form := requestForm_of_mode variants
    exact ⟨_, (exec_of_requestForm form).trans (execRequest_of_protoPre ph mode), rfl, rfl, rfl, rfl, rfl, rfl, rfl,
      byteAt_setByte_same _ 0 mode (by decide), rfl, rfl, rfl, rfl, rfl, rfl, rfl⟩
  · exact ⟨_, execAnticoll_of_protoPre ph, rfl, rfl, rfl, rfl, rfl, rfl, rfl,
      (byteAt_setByte_other _ 1 0 _ (by decide)).trans (byteAt_setByte_same _ 0 _ (by decide)),
      byteAt_setByte_same _ 1 _ (by decide), rfl, rfl, rfl, rfl, rfl, rfl, rfl⟩

/-! ## The length of sixteen bits -/

/-- A valid-bit count of 0, as a mask finds it (R133). -/
theorem validBits_eq_zero_iff (c : Byte) : c.extractLsb' 0 3 = 0 ↔ c &&& 0x07 = 0 := by
  revert c; decide

/-- WBITS is 16 for two whole bytes only (R134, R165). -/
theorem wbits_eq_sixteen_iff (lvl : Byte) (lb : BitVec 3) :
    BitVec.ofInt 16 (backLen lvl lb) = 16 ↔ lvl = 2 ∧ lb = 0 := by
  have lb_lt := lb.isLt
  calc BitVec.ofInt 16 (backLen lvl lb) = 16
    _ ↔ backLen lvl lb = 16 := by rw [← BitVec.toInt_inj, backLen_exact]; rfl
    _ ↔ lvl.toNat = 2 ∧ lb.toNat = 0 := by rw [backLen_eq]; split_ifs <;> omega
    _ ↔ lvl = 2 ∧ lb = 0 := and_congr (BitVec.toNat_inj (y := 2)) (BitVec.toNat_inj (y := 0))

/-- Settles O32: the level is then 2, which the clamp keeps. -/
theorem sixteenBitsMeansTwoWholeBytes : Obligations.SixteenBitsMeansTwoWholeBytes := by
  refine fun lvl lb => ⟨wbits_eq_sixteen_iff lvl lb, fun sixteen => ?_⟩
  obtain ⟨rfl, -⟩ := (wbits_eq_sixteen_iff lvl lb).mp sixteen
  rfl

/-! ## The validation and the commit (R163, R164) -/

theorem validateRequest_of_wrong_length {w : WorkRegs} (no_failure : w.wxout ≠ .protocolError)
    (length : w.wbits ≠ 16) :
    validateRequest w = (false, if w.wxout = .noCardDetected then .noCard else .badLength) :=
  (if_neg no_failure).trans (if_pos length)

theorem validateRequest_of_sixteen {w : WorkRegs} (no_failure : w.wxout ≠ .protocolError) (length : w.wbits = 16) :
    validateRequest w = (true, .none) :=
  (if_neg no_failure).trans (if_neg (not_not.mpr length))

/-- Settles O35: the three outcomes of the validation, and the commit that reports each. -/
theorem requestCommit : Obligations.RequestCommit := by
  intro s i variants ph
  obtain ⟨mode, form⟩ : ∃ mode, requestForm i = some mode := by obtain rfl | rfl := variants <;> exact ⟨_, rfl⟩
  have commits : exec i s = .next (commitRequest s) := (exec_of_requestForm form).trans (execRequest_of_post ph mode)
  refine ⟨(validateRequest s.work).1, (validateRequest s.work).2, ?_⟩
  by_cases failed : s.work.wxout = .protocolError
  · rw [commits, commitRequest, validateRequest_of_protocolError failed]
    exact ⟨iff_of_false nofun fun h => h.1 failed, fun _ => rfl, fun h => absurd failed h, nofun, rfl⟩
  by_cases length : s.work.wbits = 16
  · rw [commits, commitRequest, validateRequest_of_sixteen failed length]
    exact ⟨iff_of_true rfl ⟨failed, length⟩, fun h => absurd h failed, fun _ h => absurd length h, fun _ => rfl, rfl⟩
  · rw [commits, commitRequest, validateRequest_of_wrong_length failed length]
    exact ⟨iff_of_false nofun fun h => length h.2, fun h => absurd h failed, fun _ _ => rfl, nofun, rfl⟩

/-- A response of sixteen bits commits its first byte as the card's type. -/
theorem commitRequest_of_sixteen {s : State} (no_failure : s.work.wxout ≠ .protocolError)
    (length : s.work.wbits = 16) :
    commitRequest s = commit { exchangeFields .none s with
      rbits := 16, pres := .success, seq := .cardPresent, cardtype := byteAt s.work.wdata 0 } s := by
  rw [commitRequest, validateRequest_of_sixteen no_failure length, ← length]
  rfl

/-! ## From the GO to the commit -/

/-- A REQUEST left to itself whose exchange completes without an error, from the GO to the commit. -/
theorem Issued.run_request {i : Instr} {s : State} {mode : Byte} (issued : Issued i s)
    (form : requestForm i = some mode) {r : Response} (completes : r.Completes) {rest : List Byte}
    (answers : s.answers = r.before rest) :
    run (r.misses.length + r.data.length + 17) s = .next (commitRequest
      (r.received .post 1 (setByte s.work.wpay 0 mode) [.wr s.params.busAddr 0x0D 0x07] rest s)) := by
  have hx : runsExchange i = true := runsExchange_of_exchangeForm (ownsPhase_of_requestForm form s.params).2
  have exchange := completes.exchangeRun .post (l := 1) (by decide) (setByte s.work.wpay 0 mode)
    [.wr s.params.busAddr 0x0D 0x07] answers
  have steps : r.misses.length + r.data.length + 17
      = 2 + ((1 : Byte).toNat + r.misses.length + r.data.length + 13 + 1) := by
    rw [show (1 : Byte).toNat = 1 from rfl]
    omega
  rw [steps]
  exact run_whole hx (issued.run_begin_request form) (issued.undisturbed_begun _ _ _ _)
    (endPhase_of_requestForm form ▸ exchange) (show Phase.post ≠ .idle from nofun)
    ((exec_of_requestForm form).trans (execRequest_of_post rfl mode))

/-- Settles O49: the run of a REQUEST that completes, with two whole bytes for its validation. -/
theorem requestReadsCardType : Obligations.RequestReadsCardType := by
  intro s v i mode a b f n e c d0 d1 misses rest legal variants idle not_busy next_move bit_set decodes answers
    no_completion completion left no_error whole_bytes
  have issued : Issued i s := ⟨legal, idle, not_busy, ⟨v, next_move, bit_set⟩, decodes⟩
  have completes : (Response.mk a b f misses n e 2 c [d0, d1]).Completes :=
    ⟨no_completion, completion, left, no_error, rfl⟩
  have sixteen : BitVec.ofInt 16 (backLen 2 (c.extractLsb' 0 3)) = 16 :=
    (wbits_eq_sixteen_iff 2 _).mpr ⟨rfl, (validBits_eq_zero_iff c).mpr whole_bytes⟩
  have ran := (issued.run_request (requestForm_of_mode variants) completes answers).trans
    (congrArg _ (commitRequest_of_sixteen Response.received_wxout_ne_protocolError sixteen))
  refine ⟨_, ran, rfl, rfl, rfl, rfl, (Response.busTrace_received (after := .post) (rest := rest)).trans ?_⟩
  simp [payloadWrites, begun, byteAt_setByte_same, readTrace]

end Sys2Proof.Machine
end

section
/-! Proofs about ANTICOLL (spec/43_anticoll.md): its checks and its commit, the success condition, and the run from the
GO to the commit. -/

namespace Sys2Proof.Machine

/-! ## The checks (R178 to R180) -/

theorem checkAnticoll_of_wrong_count {w : WorkRegs} (ok : w.wxout = .ok) (count : w.wcount ≠ 5) :
    checkAnticoll w = (.noUidFound, .badLength) :=
  (if_neg (not_not.mpr ok)).trans (if_pos count)

/-- Five bytes under an Ok outcome: the checksum decides. -/
theorem checkAnticoll_of_five {w : WorkRegs} (ok : w.wxout = .ok) (five : w.wcount = 5) :
    checkAnticoll w =
      if bcc w.wdata = byteAt w.wdata 4 then (.success, .none) else (.checksumMismatch, .checksum) :=
  (if_neg (not_not.mpr ok)).trans (if_neg (not_not.mpr five))

theorem checkAnticoll_of_checksum {w : WorkRegs} (ok : w.wxout = .ok) (five : w.wcount = 5)
    (checksum : bcc w.wdata = byteAt w.wdata 4) : checkAnticoll w = (.success, .none) :=
  (checkAnticoll_of_five ok five).trans (if_pos checksum)

theorem checkAnticoll_of_wrong_checksum {w : WorkRegs} (ok : w.wxout = .ok) (five : w.wcount = 5)
    (wrong : bcc w.wdata ≠ byteAt w.wdata 4) : checkAnticoll w = (.checksumMismatch, .checksum) :=
  (checkAnticoll_of_five ok five).trans (if_neg wrong)

/-- The three conditions of a success (R182). -/
theorem checkAnticoll_success_iff (w : WorkRegs) :
    (checkAnticoll w).1 = .success ↔ w.wxout = .ok ∧ w.wcount = 5 ∧ bcc w.wdata = byteAt w.wdata 4 := by
  by_cases ok : w.wxout = .ok
  · by_cases five : w.wcount = 5
    · rw [checkAnticoll_of_five ok five]
      split_ifs with checksum
      · exact iff_of_true rfl ⟨ok, five, checksum⟩
      · exact iff_of_false nofun fun h => checksum h.2.2
    · rw [checkAnticoll_of_wrong_count ok five]
      exact iff_of_false nofun fun h => five h.2.1
  · rw [checkAnticoll_of_not_ok ok]
    exact iff_of_false nofun fun h => ok h.1

/-- The clamp of R135 gives five for five only. -/
theorem clampCount_eq_five_iff (lvl : Byte) : clampCount lvl = 5 ↔ lvl = 5 := by
  calc clampCount lvl = 5
    _ ↔ (clampCount lvl).toNat = 5 := (BitVec.toNat_inj (y := 5)).symm
    _ ↔ lvl.toNat = 5 := by rw [clampCount_toNat]; omega
    _ ↔ lvl = 5 := BitVec.toNat_inj (y := 5)

/-! ## The commit (R181) -/

/-- The step at the end of the exchange checks and commits. -/
theorem exec_anticoll_of_post {s : State} (ph : s.work.phase = .post) :
    exec .anticoll s = .next (commitAnticoll s) :=
  execAnticoll_of_post ph

/-- UID0 to UID3 are the response bytes they are named after (R29). -/
theorem byteAt_uidOf (d : Vector Byte 16) {k : Nat} (hk : k < 4) : byteAt (uidOf d) k = byteAt d k := by
  interval_cases k <;> rfl

/-- The commit under a known result of the checks. -/
theorem commitAnticoll_of_check {s : State} {pres : PRes} {cause : Cause}
    (check : checkAnticoll s.work = (pres, cause)) :
    commitAnticoll s = commit { exchangeFields cause s with
      pres := pres, seq := if pres = .success then .uidKnown else .idle
      uid := if pres = .success then uidOf s.work.wdata else .replicate 4 0 } s := by
  rw [commitAnticoll, check]

/-- Settles O36: each result of the checks has its rule, and the commit is `commitAnticoll`. -/
theorem anticollCommit : Obligations.AnticollCommit := by
  refine ⟨fun s ph => ?_, clampCount_eq_five_iff⟩
  refine ⟨(checkAnticoll s.work).1, (checkAnticoll s.work).2, _,
    fun failed => Prod.ext_iff.mp (checkAnticoll_of_not_ok failed),
    fun ok count => Prod.ext_iff.mp (checkAnticoll_of_wrong_count ok count),
    fun ok five => ⟨fun checksum => Prod.ext_iff.mp (checkAnticoll_of_checksum ok five checksum),
      fun wrong => Prod.ext_iff.mp (checkAnticoll_of_wrong_checksum ok five wrong)⟩,
    fun k hk => ?_, exec_anticoll_of_post ph⟩
  split_ifs
  · exact byteAt_uidOf s.work.wdata hk
  · exact byteAt_replicate 4 k

/-! ## The success condition (R182) -/

/-- RCOUNT shows the number of response bytes (R26). -/
theorem rcount_eq_five_iff (wcount : BitVec 5) : wcount.setWidth 8 = (5 : Byte) ↔ wcount = 5 := by
  rw [← BitVec.toNat_inj, BitVec.toNat_setWidth_of_le (by decide)]
  exact BitVec.toNat_inj (y := 5)

/-- The bit length of five bytes (R134). -/
theorem backLen_five (lb : BitVec 3) : backLen 5 lb = if lb = 0 then 40 else 32 + (lb.toNat : Int) := rfl

/-- Settles O37: the checks look at neither WBITS nor anything but the outcome, the count and the bytes. -/
theorem anticollSuccessCondition : Obligations.AnticollSuccessCondition := by
  refine ⟨fun s ph => ⟨commitAnticoll s, exec_anticoll_of_post ph, ?_, fun bits => ?_⟩,
    fun lb => (backLen_exact 5 lb).trans (backLen_five lb)⟩
  · change (checkAnticoll s.work).1 = .success ↔ s.work.wxout = .ok ∧ s.work.wcount.setWidth 8 = 5
      ∧ bcc s.work.wdata = byteAt s.work.wdata 4
    rw [checkAnticoll_success_iff, rcount_eq_five_iff]
  · exact ⟨_, exec_anticoll_of_post ph, rfl, rfl⟩

/-! ## The response of five bytes -/

/-- WDATA after the response bytes `data` (R120, R136). -/
def responseFile (data : List Byte) : Vector Byte 16 := fillBytes (.replicate 16 0) 0 data

theorem byteAt_responseFile (data : List Byte) {k : Nat} (hk : k < 16) :
    byteAt (responseFile data) k = data.getD k 0 :=
  byteAt_fillBytes_replicate data hk

/-- The checksum of R179 in terms of the five bytes read. -/
theorem checksum_responseFile_iff (u0 u1 u2 u3 check : Byte) :
    bcc (responseFile [u0, u1, u2, u3, check]) = byteAt (responseFile [u0, u1, u2, u3, check]) 4
      ↔ u0 ^^^ u1 ^^^ u2 ^^^ u3 = check := by
  simp [bcc, byteAt_responseFile]

theorem uidOf_responseFile (u0 u1 u2 u3 : Byte) (data : List Byte) :
    uidOf (responseFile (u0 :: u1 :: u2 :: u3 :: data)) = #v[u0, u1, u2, u3] := by
  simp [uidOf, byteAt_responseFile]

/-- The valid-bit count as ControlReg's low three bits (R133). -/
theorem validBits_toNat_eq_mask (c : Byte) : (c.extractLsb' 0 3).toNat = (c &&& 0x07).toNat :=
  (validBits_toNat c).trans ((BitVec.toNat_and c 0x07).trans (Nat.and_two_pow_sub_one_eq_mod _ 3)).symm

/-- WBITS of five bytes, from 33 to 40 (R134, R182). -/
theorem wbits_five_toNat (c : Byte) :
    (BitVec.ofInt 16 (backLen 5 (c.extractLsb' 0 3))).toNat
      = if c &&& 0x07 = 0 then 40 else 32 + (c &&& 0x07).toNat := by
  have lb_lt := (c.extractLsb' 0 3).isLt
  rw [BitVec.toNat_ofInt, backLen_five, ← validBits_toNat_eq_mask]
  simp only [validBits_eq_zero_iff]
  split_ifs <;> omega

/-! ## From the GO to the commit -/

/-- WPAY with the frame of an ANTICOLL (R177). -/
def anticollFrame (wpay : Vector Byte 16) : Vector Byte 16 :=
  setByte (setByte wpay 0 anticollFrame0) 1 anticollFrame1

/-- An ANTICOLL comes to its exchange in two steps, with its frame of two bytes (R176, R177). -/
theorem Issued.run_begin_anticoll {s : State} (issued : Issued .anticoll s) :
    run 2 s = .next (begun cmdTransceive 2 (anticollFrame s.work.wpay) [.wr s.params.busAddr 0x0D 0x00] s) :=
  issued.run_begin_protocol (fun _ idle => execAnticoll_of_idle idle) fun _ ph => execAnticoll_of_protoPre ph

/-- An ANTICOLL left to itself whose exchange completes without an error, from the GO to the commit. -/
theorem Issued.run_anticoll {s : State} (issued : Issued .anticoll s) {r : Response} (completes : r.Completes)
    {rest : List Byte} (answers : s.answers = r.before rest) :
    run (r.misses.length + r.data.length + 18) s = .next (commitAnticoll
      (r.received .post 2 (anticollFrame s.work.wpay) [.wr s.params.busAddr 0x0D 0x00] rest s)) := by
  have exchange := completes.exchangeRun .post (l := 2) (by decide) (anticollFrame s.work.wpay)
    [.wr s.params.busAddr 0x0D 0x00] answers
  have steps : r.misses.length + r.data.length + 18
      = 2 + ((2 : Byte).toNat + r.misses.length + r.data.length + 13 + 1) := by
    rw [show (2 : Byte).toNat = 2 from rfl]
    omega
  rw [steps]
  exact run_whole rfl issued.run_begin_anticoll (issued.undisturbed_begun _ _ _ _) exchange
    (show Phase.post ≠ .idle from nofun) (exec_anticoll_of_post rfl)

/-- The transactions that R148 counts, in a Transceive that reads a response. -/
theorem Response.length_trace_received {r : Response} {after : Phase} {l : Byte} (fits : l.toNat ≤ 16)
    (wpay : Vector Byte 16) (pre : List Txn) (rest : List Byte) (s : State) :
    (r.received after l wpay pre rest s).trace.length
      = s.trace.length + (pre.length + l.toNat + r.misses.length + r.data.length + 13) := by
  have length := congrArg List.length
    (Response.busTrace_received (r := r) (after := after) (l := l) (wpay := wpay) (pre := pre) (rest := rest) (s := s))
  simp only [busTrace, payloadWrites, readTrace, (setWidth_payloadLength l fits).1, List.length_append,
    List.length_reverse, List.length_map, List.length_range', List.length_cons, List.length_nil] at length
  omega

/-- Settles O50: the run of an ANTICOLL that completes with five bytes, whose checksum decides the commit. -/
theorem anticollReadsUid : Obligations.AnticollReadsUid := by
  intro s v a b f n e c u0 u1 u2 u3 check misses rest legal idle not_busy next_move bit_set decodes answers
    no_completion completion no_timer left no_error
  have issued : Issued .anticoll s := ⟨legal, idle, not_busy, ⟨v, next_move, bit_set⟩, decodes⟩
  have completes : (Response.mk a b f misses n e 5 c [u0, u1, u2, u3, check]).Completes :=
    ⟨no_completion, fun none => completion ((no_completion_transceive_iff n).mp none).2, left, no_error, rfl⟩
  have ok : (if n &&& 0x01 = 0 then XOut.ok else .noCardDetected) = .ok := if_pos no_timer
  have checksum_iff := checksum_responseFile_iff u0 u1 u2 u3 check
  refine ⟨_, issued.run_anticoll completes answers, rfl, rfl, rfl, rfl, rfl, rfl, rfl, ok, rfl, wbits_five_toNat c,
    rfl, rfl, rfl, fun checksum => ?_, fun wrong => ?_, ?_⟩
  · rw [commitAnticoll_of_check (pres := .success) (cause := .none)]
    · exact ⟨rfl, rfl, rfl, uidOf_responseFile u0 u1 u2 u3 [check]⟩
    · exact checkAnticoll_of_checksum ok rfl (checksum_iff.mpr checksum)
  · rw [commitAnticoll_of_check (pres := .checksumMismatch) (cause := .checksum)]
    · exact ⟨rfl, rfl, rfl, rfl⟩
    · exact checkAnticoll_of_wrong_checksum ok rfl fun h => wrong (checksum_iff.mp h)
  · refine (Response.length_trace_received (after := .post) (by decide) _ _ rest s).trans ?_
    simp only [List.length_cons, List.length_nil, show (2 : Byte).toNat = 2 from rfl]
    omega

end Sys2Proof.Machine
end

section
/-! Proofs about the events of spec/60_exceptions.md: the rejected word (R192), the host-protocol fault (R194), and that
neither they nor an exchange failure stops the machine (R190, R191, R198) or clears FAULT (R195). -/

namespace Sys2Proof.Machine

/-! ## The two events -/

/-- Settles O13: the write reaches a writable register while BUSY is set. -/
theorem hostWriteWhileBusyFaults : Obligations.HostWriteWhileBusyFaults := by
  intro s off v rest writable legal next_move busy
  exact (step_of_write legal next_move).trans (hostWrite_busy off v _ ((hostWritable_iff off).mpr writable) busy)

/-- CAUSE after a rejection (R25). -/
theorem causeByte_illegal {h : HostRegs} (illegal : h.cause = .illegal) : causeByte h = 0x06 := by
  simp only [causeByte, illegal]
  rfl

/-- STATUS after a rejection shows DONE and ILL, and FAULT as it was (R23). -/
theorem statusByte_rejected {h : HostRegs} (cause : Cause) (not_busy : h.busy = false) :
    statusByte { h with ill := true, done := true, cause := cause } = if h.fault then 0x0E else 0x06 := by
  simp only [statusByte, not_busy]
  cases h.fault <;> rfl

/-- Settles O14: the GO of an illegal word is `illegalOperation`, and the reads are those of the status bytes. -/
theorem illegalOperationIsPrecise : Obligations.IllegalOperationIsPrecise := by
  intro s v rest why legal next_move bit_set not_busy hd
  exact ⟨_, (step_of_go legal next_move bit_set not_busy).trans (go_of_illegal hd), rfl,
    causeByte_illegal rfl, statusByte_rejected .illegal not_busy⟩

/-! ## What a host write and a step come to -/

/-- Everything a host write can come to. -/
inductive HostWriteIs (off : Offset) (v : Byte) (s : State) : Prop where
  | nothing (h : hostWrite off v s = .next s)
  | fault (h : hostWrite off v s = .next (hostProtocolFault s))
  | go (not_busy : s.host.busy = false) (h : hostWrite off v s = Machine.go s)
  | store (h : hostWrite off v s = .next { s with host := storeHost off v s.host })

theorem hostWriteIs (off : Offset) (v : Byte) (s : State) : HostWriteIs off v s := by
  cases writable : hostWritable off with
  | false => exact .nothing (hostWrite_unwritable off v s writable)
  | true =>
    cases busy : s.host.busy with
    | true => exact .fault (hostWrite_busy off v s writable busy)
    | false =>
      by_cases ctrl : off = 0x10
      · subst ctrl
        cases bit : v.getLsbD 0 with
        | true => exact .go busy (hostWrite_go v s busy bit)
        | false => exact .nothing (by rw [hostWrite_ctrl, busy, bit]; rfl)
      · exact .store (hostWrite_store off v s writable busy ctrl)

/-- Which agent a step belongs to (R71), on the state from which its move is taken off the list. -/
inductive StepIs (s : State) : Prop where
  | cix {rest} (h : step s = cixMove { s with moves := rest })
  | read {off rest} (h : step s = .next (noteRead off { s with moves := rest }))
  | write {off v rest} (h : step s = hostWrite off v { s with moves := rest })
  | reset {rest} (next_move : s.moves = .reset :: rest) (h : step s = .next (applyReset { s with moves := rest }))

theorem stepIs {s : State} (legal : s.params.legal = true) : StepIs s := by
  cases next_move : s.moves with
  | nil => exact .cix (step_of_noMove legal next_move)
  | cons move rest =>
    cases move with
    | cix => exact .cix (step_of_cix legal next_move)
    | read off => exact .read (step_of_read legal next_move)
    | write off v => exact .write (step_of_write legal next_move)
    | waitDone =>
      have waits := step_of_waitDone legal next_move
      cases busy : s.host.busy with
      | true => exact .cix (waits.trans (if_pos busy))
      | false => exact .read (waits.trans (if_neg (by simp [busy])))
    | reset => exact .reset next_move (by simp only [step, stepOf, if_pos legal, oneMove, next_move])

/-! ## The machine goes on -/

/-- An operation in flight is one that has a step in its phase, and in IDLE CIX waits (R222). -/
theorem State.Inv.cixMove_next {s : State} (inv : s.Inv) : ∃ t, cixMove s = .next t := by
  by_cases idle : s.work.phase = .idle
  · exact ⟨s, if_pos idle⟩
  · obtain ⟨i, hd, owns⟩ := latchedOk_decode inv.latched idle
    rw [cixMove_of_inFlight idle hd]
    exact (operationsGoOnInTheirPhases i s).1 owns

/-- In IDLE a GO is answered, by a rejection or by the acceptance that every operation has there. -/
theorem go_next {s : State} (idle : s.work.phase = .idle) : ∃ t, go s = .next t := by
  cases hd : decode s.params (opWord s.host) with
  | illegal why => exact ⟨_, go_of_illegal hd⟩
  | legal i =>
    have owns : ownsPhase i s.work.phase = true := by rw [idle]; rfl
    rw [go_of_legal hd]
    exact (operationsGoOnInTheirPhases i s).1 owns

theorem State.Inv.hostWrite_next {s : State} (inv : s.Inv) (off : Offset) (v : Byte) :
    ∃ t, hostWrite off v s = .next t := by
  cases hostWriteIs off v s with
  | nothing h | fault h | store h => exact ⟨_, h⟩
  | go not_busy h =>
    rw [h]
    exact go_next (inv.idle_of_not_busy not_busy)

/-- Settles O44: whoever acts, the invariant gives the step an answer; it does not speak of the moves. -/
theorem machineNeverStops : Obligations.MachineNeverStops := by
  intro s inv
  have inv_rest (rest : List Move) : ({ s with moves := rest } : State).Inv := inv
  cases stepIs inv.legal with
  | cix h => rw [h]; exact (inv_rest _).cixMove_next
  | read h | reset _ h => exact ⟨_, h⟩
  | write h => rw [h]; exact (inv_rest _).hostWrite_next _ _

/-! ## FAULT stays set -/

theorem ExecStep.fault_eq {i : Instr} {s t : State} (h : ExecStep i s t) : t.host.fault = s.host.fault := by
  cases h with
  | exchangeExec | exchangeProtocol => rw [(exchangeStep_frame _ _ s).host]
  | acceptExec | rejectLength | acceptProtocol | acceptMask | requestPre | anticollPre | commitExec | commitRequest
  | commitAnticoll | maskRead | setWrite | clearWrite | maskCommit => rfl

theorem cixMove_fault_eq {s t : State} (h : cixMove s = .next t) : t.host.fault = s.host.fault := by
  unfold cixMove at h
  split at h
  · cases h; rfl
  · split at h
    · exact (exec_step h).fault_eq
    · cases h

theorem go_fault_eq {s t : State} (h : go s = .next t) : t.host.fault = s.host.fault := by
  unfold go at h
  split at h
  · exact (exec_step h).fault_eq
  · cases h; rfl

theorem hostWrite_keeps_fault {off : Offset} {v : Byte} {s t : State} (fault : s.host.fault = true)
    (h : hostWrite off v s = .next t) : t.host.fault = true := by
  cases hostWriteIs off v s with
  | nothing h' => cases h.symm.trans h'; exact fault
  | fault h' => cases h.symm.trans h'; rfl
  | go _ h' => exact (go_fault_eq (h'.symm.trans h)).trans fault
  | store h' =>
    obtain ⟨opw, payload, stored⟩ := storeHost_frame off v s.host
    cases h.symm.trans h'
    rw [stored]
    exact fault

/-- Only the reset input clears FAULT (R195). -/
theorem step_keeps_fault {s t : State} (fault : s.host.fault = true) (h : step s = .next t) :
    t.host.fault = true ∨ ∃ rest, s.moves = .reset :: rest := by
  obtain ⟨legal, -⟩ := step_effect h
  cases stepIs legal with
  | cix h' => exact .inl ((cixMove_fault_eq (h'.symm.trans h)).trans fault)
  | read h' => cases h.symm.trans h'; exact .inl fault
  | @write _ _ rest h' =>
    exact .inl (hostWrite_keeps_fault (s := { s with moves := rest }) fault (h'.symm.trans h))
  | reset next_move => exact .inr ⟨_, next_move⟩

/-! ## No operation reads FAULT -/

/-- The state with another value of FAULT. -/
def State.withFault (b : Bool) (s : State) : State := { s with host := { s.host with fault := b } }

theorem State.withFault_work (b : Bool) (s : State) : (s.withFault b).work = s.work := rfl

/-- An answer with another value of FAULT in the state that is gone on to. -/
def resultWithFault (b : Bool) : Result → Result
  | .next t => .next (t.withFault b)
  | .fault f => .fault f
  | .refused r => .refused r

section Inert
variable (b : Bool) (s : State)

theorem exchangeStep_withFault (after : Phase) (p : XPos) :
    exchangeStep after p (s.withFault b) = (exchangeStep after p s).withFault b := by
  cases p with
  | start =>
    change xStart (s.withFault b) = (xStart s).withFault b
    by_cases transceive : s.work.cmd = cmdTransceive
    · rw [xStart_transceive s transceive, xStart_transceive (s.withFault b) transceive]; rfl
    · rw [xStart_other s transceive, xStart_other (s.withFault b) transceive]; rfl
  | poll =>
    change xPoll after (s.withFault b) = (xPoll after s).withFault b
    by_cases spent : s.work.i - 1 = 0
    · rw [xPoll_timeout after s spent, xPoll_timeout after (s.withFault b) spent]; rfl
    · cases done : pollDone (pcdAnswer (regAddr .comIrq) s) s.work.waitirq with
      | true => rw [xPoll_done after s spent done, xPoll_done after (s.withFault b) spent done]; rfl
      | false => rw [xPoll_again after s spent done, xPoll_again after (s.withFault b) spent done]; rfl
  | enable | irqRead | irqWrite | flushRead | flushWrite | loadIdle | push | sendRead | sendWrite | error | level
  | control | fetch => rfl

theorem execExchange_withFault (cmd l : Byte) :
    execExchange cmd l (s.withFault b) = resultWithFault b (execExchange cmd l s) := by
  unfold execExchange
  rw [State.withFault_work]
  cases s.work.phase with
  | idle =>
    dsimp only
    split <;> rfl
  | xchg p => exact congrArg Host.Outcome.next (exchangeStep_withFault b s .xchgEnd p)
  | xchgEnd | protoPre | rmwRead | rmwWrite | rmwEnd | post => rfl

theorem execRequest_withFault (mode : Byte) :
    execRequest mode (s.withFault b) = resultWithFault b (execRequest mode s) := by
  unfold execRequest
  rw [State.withFault_work]
  cases s.work.phase with
  | xchg p => exact congrArg Host.Outcome.next (exchangeStep_withFault b s .post p)
  | idle | protoPre | post | xchgEnd | rmwRead | rmwWrite | rmwEnd => rfl

theorem execAnticoll_withFault : execAnticoll (s.withFault b) = resultWithFault b (execAnticoll s) := by
  unfold execAnticoll
  rw [State.withFault_work]
  cases s.work.phase with
  | xchg p => exact congrArg Host.Outcome.next (exchangeStep_withFault b s .post p)
  | idle | protoPre | post | xchgEnd | rmwRead | rmwWrite | rmwEnd => rfl

/-- A bit-mask operation, whose write must not depend on FAULT either. -/
theorem execRmw_withFault (reg : RegAddr) {write : State → State}
    (write_withFault : write (s.withFault b) = (write s).withFault b) :
    execRmw reg write (s.withFault b) = resultWithFault b (execRmw reg write s) := by
  unfold execRmw
  rw [State.withFault_work]
  cases s.work.phase with
  | rmwWrite => exact congrArg (fun t => Host.Outcome.next (setPhase .rmwEnd t)) write_withFault
  | idle | rmwRead | rmwEnd | protoPre | xchg | xchgEnd | post => rfl

/-- FAULT changes nothing of what an operation does, and is carried along (R195). -/
theorem exec_withFault (i : Instr) : exec i (s.withFault b) = resultWithFault b (exec i s) := by
  cases i with
  | idle l | transceive l | authent l | softReset l | receive l | transmit l | calcCrc l =>
    exact execExchange_withFault b s _ l
  | reqIdl | reqAll => exact execRequest_withFault b s _
  | anticoll => exact execAnticoll_withFault b s
  | setBits reg m | clearBits reg m => exact execRmw_withFault b s reg rfl

end Inert

/-- Settles O46: a step that finds FAULT set leaves it set or is the reset, and no operation reads it. -/
theorem faultIsStickyAndInert : Obligations.FaultIsStickyAndInert := by
  refine ⟨fun s t fault h cleared => ?_, fun i s t b h => ?_⟩
  · exact (step_keeps_fault fault h).resolve_left (by simp [cleared])
  · exact (exec_withFault b s i).trans (congrArg (resultWithFault b) h)

end Sys2Proof.Machine
end

section
/-! Proofs about reset, the binding to the PCD and waiting (spec/70_reset_and_hazards.md R220 to R223): what a step of an
operation does to the parameters and the bus trace, the step of the reset input, and the step of CIX in IDLE. -/

namespace Sys2Proof.Machine

/-! ## The binding to the PCD -/

/-- From `s` to `t` the parameters stay, and the bus trace grows by at most one transaction, which is at the bus address
that CIX was built with (R63, R70, R223). -/
def KeepsBinding (s t : State) : Prop :=
  t.params = s.params ∧ (t.trace = s.trace ∨ ∃ x, t.trace = x :: s.trace ∧ txnDev x = s.params.busAddr)

theorem KeepsBinding.silent {s t : State} (params : t.params = s.params) (trace : t.trace = s.trace) :
    KeepsBinding s t := ⟨params, .inl trace⟩

theorem KeepsBinding.transaction {s t : State} {x : Txn} (params : t.params = s.params)
    (trace : t.trace = x :: s.trace) (dev : txnDev x = s.params.busAddr) : KeepsBinding s t :=
  ⟨params, .inr ⟨x, trace, dev⟩⟩

/-- Each position of the exchange makes exactly one transaction (R70). -/
theorem ExchangeFrame.keepsBinding {s t : State} (frame : ExchangeFrame s t) : KeepsBinding s t :=
  ⟨frame.params, .inr frame.trace⟩

/-- A step of an operation is silent, as acceptance, rejection and commit are, or makes one transaction. -/
theorem ExecStep.keepsBinding {i : Instr} {s t : State} (h : ExecStep i s t) : KeepsBinding s t := by
  cases h with
  | acceptExec | rejectLength | acceptProtocol | acceptMask | commitExec | commitRequest | commitAnticoll
  | maskCommit => exact .silent rfl rfl
  | requestPre | anticollPre | maskRead | setWrite | clearWrite => exact .transaction rfl rfl rfl
  | exchangeExec | exchangeProtocol => exact (exchangeStep_frame _ _ s).keepsBinding

/-- Only a step of an operation reaches the bus: a host access, a wait and the reset input are silent. -/
theorem MoveEffect.keepsBinding {s t : State} (h : MoveEffect s t) : KeepsBinding s t := by
  cases h with
  | cixStep _ _ he | goAccept _ _ he => exact (exec_step he).keepsBinding
  | nothing ht | goReject _ _ ht | hostFault _ ht | hostStore _ ht | hostRead ht | reset ht =>
    rw [ht]
    exact .silent rfl rfl

/-- Settles O6: taking a move off the list touches neither the parameters nor the trace, and every effect of a move
keeps the binding. -/
theorem bindingFixedForLife : Obligations.BindingFixedForLife := by
  intro s t h
  obtain ⟨-, rest, -, effect⟩ := step_effect h
  exact effect.keepsBinding

/-! ## Reset -/

/-- Every register at its reset value reads 0x00 (R43, R220): a closed fact, evaluated at each of the 64 offsets. -/
theorem hostRead_reset : ∀ off : Offset, hostRead HostRegs.reset off = 0x00 := by decide

/-- The reset input is `applyReset` on the state with the move taken off the list. -/
theorem step_of_reset {s : State} {rest : List Move} (legal : s.params.legal = true)
    (next_move : s.moves = .reset :: rest) : step s = .next (applyReset { s with moves := rest }) := by
  simp only [step, stepOf, if_pos legal, oneMove, next_move]

/-- Settles O5: the start state and the state after the reset input hold the same registers, those of
`HostRegs.reset`. -/
theorem resetClearsEveryRegister : Obligations.ResetClearsEveryRegister := by
  refine ⟨hostRead_reset, rfl, fun s rest legal next_move => ?_⟩
  exact ⟨_, step_of_reset legal next_move, hostRead_reset, rfl, rfl, rfl, rfl, rfl, rfl, rfl, rfl, rfl, rfl, rfl, rfl,
    rfl⟩

/-! ## Waiting -/

/-- In IDLE a step of CIX changes nothing (R222). -/
theorem cixMove_of_idle {s : State} (idle : s.work.phase = .idle) : cixMove s = .next s := if_pos idle

/-- Settles O17: whether the list of moves is empty or grants CIX the step, it is CIX's own, in IDLE. -/
theorem idleMachineWaits : Obligations.IdleMachineWaits := by
  intro s legal idle
  refine ⟨fun no_move => ?_, fun rest next_move => ?_⟩
  · exact (step_of_noMove legal no_move).trans (cixMove_of_idle idle)
  · exact (step_of_cix legal next_move).trans (cixMove_of_idle idle)

end Sys2Proof.Machine
end
